-- ==== Sys2Proof/Word.lean ====
section
/-! DEFINITION. The word types of the block: presented addresses, data bytes and words, the reload value, the interrupt level, the packed operation. -/

namespace Sys2Proof

/-- A presented address, before any masking: `BUS_AW` = 32 bits (00_scope.md R10). -/
abbrev Addr := BitVec 32

/-- A data byte: the width of `RDB`, `WRB` and of every device port (20_memory.md R59). -/
abbrev Byte := BitVec 8

/-- A data word: the width of `RDW`, `WRW` and `PEEKW` (20_memory.md R59). -/
abbrev Word := BitVec 16

/-- The timer's reload value, `RELOAD_W` = 24 bits (00_scope.md R6, 10_state.md R24). -/
abbrev Reload := BitVec 24

/-- An interrupt-priority level, 3 bits (10_state.md R41; PRESUMED width, log entry 11). -/
abbrev Level := BitVec 3

/-- The packed operation `T` of 30_encoding.md R83, 52 bits, padded with four zero bits to whole bytes
(log entry 12). -/
abbrev Packed := BitVec 56

end Sys2Proof
end

