-- ==== Sys2Proof/Config.lean ====
section
/-! DEFINITION. The constants the source fixes (00_scope.md R6), the record `Config` of the values it leaves open (R7), the two reading parameters (93_implementation_defined.md U3, U4), and the reference configuration (R11). -/

namespace Sys2Proof

/-- Which steps of cycle-sync stand under the timer's enable bit (93_implementation_defined.md U4). -/
inductive SyncGate where
  /-- The spec's reading, 42_interval_timer.md R155: only the subtraction and the interrupt. -/
  | literal
  /-- The other reading, written out in 92_eei_decisions.md D14: all three steps. -/
  | whole
deriving DecidableEq, Repr

/-- The parameters of a run (00_scope.md R7), under the spec's names.  They are constants of the run: no
operation changes one (10_state.md R45, 30_encoding.md R92). -/
structure Config where
  A_ACIA_SR_RD : Addr
  A_ACIA_DR_RD : Addr
  A_ACIA_DR_WR : Addr
  A_ACIA_CR_WR : Addr
  A_TMR_RH_WR : Addr
  A_TMR_RM_WR : Addr
  A_TMR_RL_WR : Addr
  A_TMR_CR_WR : Addr
  A_TMR_SR_RD : Addr
  A_TMR_SR_WR : Addr
  ACIA_TX_READY : Byte
  ACIA_ENABLE_MAGIC : Byte
  BOOT_W0 : Word
  BOOT_W2 : Word
  BOOT_W4 : Word
  START_PC : Word
  /-- U3: whether a byte read at a write-only port address is fatal; false is the spec's reading (R87). -/
  UNBOUND_DIR_FATAL : Bool
  /-- U4: the scope of the enable test in cycle-sync; literal is the spec's reading (R155). -/
  SYNC_GATE : SyncGate
deriving DecidableEq, Repr

namespace Config

/-- `IMG_SIZE`: entries of MemoryImage (R6). -/
def IMG_SIZE : Nat := 65536

/-- `PRESCALE`: what a tick adds back to the prescaler (R6). -/
def PRESCALE : Int := 32

/-- `TMR_IRQ_LEVEL`: the level asserted at a reload event (R6). -/
def TMR_IRQ_LEVEL : Level := 5

/-- `TMR_ENABLE_MASK`: the control-write bit that enables the timer (R6). -/
def TMR_ENABLE_MASK : Byte := 0x20

/-- `TMR_SR_CLEAR`: the status-write value that deasserts the interrupt (R6). -/
def TMR_SR_CLEAR : Byte := 0x01

/-- `IPL_IDLE`: the level driven at deassert (R6). -/
def IPL_IDLE : Level := 0

/-- `BOOT_ADDRS`: the addresses the peek path answers with bootstrap words (R6). -/
def BOOT_ADDRS : List Addr := [0, 2, 4, 6]

/-- `RD_ADDRS`, the three read-side addresses (30_encoding.md R85). -/
def rdAddrs (cfg : Config) : List Addr := [cfg.A_ACIA_SR_RD, cfg.A_ACIA_DR_RD, cfg.A_TMR_SR_RD]

/-- `WR_ADDRS`, the seven write-side addresses (30_encoding.md R85). -/
def wrAddrs (cfg : Config) : List Addr :=
  [cfg.A_ACIA_DR_WR, cfg.A_ACIA_CR_WR, cfg.A_TMR_RH_WR, cfg.A_TMR_RM_WR, cfg.A_TMR_RL_WR,
   cfg.A_TMR_CR_WR, cfg.A_TMR_SR_WR]

/-- `DEVICE_ADDRS` = `RD_ADDRS` ∪ `WR_ADDRS` (30_encoding.md R85). -/
def deviceAddrs (cfg : Config) : List Addr := cfg.rdAddrs ++ cfg.wrAddrs

/-- The reference configuration `CFG_REF` (R11), with the reading parameters at their defaults.
DESIGN CHOICE (log entry 1): the spec's own values, none of the source's.  Unsafe where a claim rests on one. -/
def CFG_REF : Config where
  A_ACIA_SR_RD := 0x00010040
  A_ACIA_DR_RD := 0x00010042
  A_ACIA_DR_WR := 0x00010042
  A_ACIA_CR_WR := 0x00010040
  A_TMR_RH_WR := 0x00010027
  A_TMR_RM_WR := 0x00010029
  A_TMR_RL_WR := 0x0001002B
  A_TMR_CR_WR := 0x00010021
  A_TMR_SR_RD := 0x00010035
  A_TMR_SR_WR := 0x00010035
  ACIA_TX_READY := 0x02
  ACIA_ENABLE_MAGIC := 0x15
  BOOT_W0 := 0x0000
  BOOT_W2 := 0x8000
  BOOT_W4 := 0x0000
  START_PC := 0x1600
  UNBOUND_DIR_FATAL := false
  SYNC_GATE := .literal

end Config

end Sys2Proof
end

