-- ==== Sys2Proof/Syntax.lean ====
section
/-! DEFINITION. The abstract syntax: the six operations (30_encoding.md R80, R81), the twenty behaviours the decoder selects (R88), the requests a trace is made of (R98), and the reasons a packed word spells no operation (R83). -/

namespace Sys2Proof

/-- One operation on the block, in the normative abstract syntax (30_encoding.md R81). -/
inductive Op where
  | rdb (a : Addr)
  | rdw (a : Addr)
  | wrb (a : Addr) (v : Byte)
  | wrw (a : Addr) (w : Word)
  | peekw (a : Addr)
  /-- `n` is a natural number with no upper bound (R82, 92_eei_decisions.md D15). -/
  | sync (n : Nat)
deriving DecidableEq, Repr

/-- The four presented addresses the peek path answers itself (00_scope.md R6 `BOOT_ADDRS`). -/
inductive BootSlot where
  | at0 | at2 | at4 | at6
deriving DecidableEq, Repr

/-- The twenty behaviours of 30_encoding.md R88, one constructor per row, in the table's order.
`a` is the presented address, `v` the byte, `w` the word, `n` the cycle count. -/
inductive Instr where
  | rdbAciaSr (a : Addr)
  | rdbAciaDr (a : Addr)
  | rdbTmrSr (a : Addr)
  | rdbMem (a : Addr)
  | wrbAciaDr (a : Addr) (v : Byte)
  | wrbAciaCr (a : Addr) (v : Byte)
  | wrbTmrRh (a : Addr) (v : Byte)
  | wrbTmrRm (a : Addr) (v : Byte)
  | wrbTmrRl (a : Addr) (v : Byte)
  | wrbTmrCr (a : Addr) (v : Byte)
  | wrbTmrSr (a : Addr) (v : Byte)
  | wrbMem (a : Addr) (v : Byte)
  | rdwDev (a : Addr)
  | rdwMem (a : Addr)
  | wrwDev (a : Addr) (w : Word)
  | wrwMem (a : Addr) (w : Word)
  | peekwBoot (slot : BootSlot)
  | peekwDev (a : Addr)
  | peekwMem (a : Addr)
  | sync (n : Nat)
deriving DecidableEq, Repr

/-- One entry of a trace: an operation in the abstract syntax, or one in the packing of R83, still to be read. -/
inductive Request where
  | op (o : Op)
  | word (t : Packed)
deriving DecidableEq, Repr

/-- Why a packed word spells no operation (30_encoding.md R83). -/
inductive DecodeError where
  /-- A bit above `T[51]` is set. -/
  | tooWide
  /-- `T[51:48]` is 6 to 15 (R84). -/
  | noSuchOpCode
  /-- A format A or N word with `T[15:0]` not zero. -/
  | dataNotZero
  /-- A `WRB` with `T[15:8]` not zero. -/
  | byteTooWide
deriving DecidableEq, Repr

end Sys2Proof
end

