-- ==== Sys2Proof/WellFormed.lean ====
section
/-! DEFINITION. Which configurations the spec gives a meaning (00_scope.md R9), and which behaviours a configuration can select (30_encoding.md R88, column "condition"). -/

namespace Sys2Proof

/-- 00_scope.md R9: the read-side addresses are pairwise distinct, and so are the write-side ones.
Its condition (c), every address below 2^32, is the type `Addr`. -/
abbrev Config.WellFormed (cfg : Config) : Prop := cfg.rdAddrs.Nodup ∧ cfg.wrAddrs.Nodup

/-- The presented address of a bootstrap slot. -/
def BootSlot.addr : BootSlot → Addr
  | .at0 => 0
  | .at2 => 2
  | .at4 => 4
  | .at6 => 6

/-- The condition of a behaviour's row in 30_encoding.md R88. -/
def Instr.wellFormed (cfg : Config) : Instr → Bool
  | .rdbAciaSr a => a == cfg.A_ACIA_SR_RD
  | .rdbAciaDr a => a == cfg.A_ACIA_DR_RD
  | .rdbTmrSr a => a == cfg.A_TMR_SR_RD
  | .rdbMem a => decide (a ∉ cfg.rdAddrs)
  | .wrbAciaDr a _ => a == cfg.A_ACIA_DR_WR
  | .wrbAciaCr a _ => a == cfg.A_ACIA_CR_WR
  | .wrbTmrRh a _ => a == cfg.A_TMR_RH_WR
  | .wrbTmrRm a _ => a == cfg.A_TMR_RM_WR
  | .wrbTmrRl a _ => a == cfg.A_TMR_RL_WR
  | .wrbTmrCr a _ => a == cfg.A_TMR_CR_WR
  | .wrbTmrSr a _ => a == cfg.A_TMR_SR_WR
  | .wrbMem a _ => decide (a ∉ cfg.wrAddrs)
  | .rdwDev a => decide (a ∈ cfg.deviceAddrs)
  | .rdwMem a => decide (a ∉ cfg.deviceAddrs)
  | .wrwDev a _ => decide (a ∈ cfg.deviceAddrs)
  | .wrwMem a _ => decide (a ∉ cfg.deviceAddrs)
  | .peekwBoot _ => true
  | .peekwDev a => decide (a ∈ cfg.deviceAddrs) && decide (a ∉ Config.BOOT_ADDRS)
  | .peekwMem a => decide (a ∉ cfg.deviceAddrs) && decide (a ∉ Config.BOOT_ADDRS)
  | .sync _ => true

end Sys2Proof
end

