-- ==== Sys2Proof/Decode.lean ====
section
/-! DEFINITION. The address decoder (30_encoding.md R86 to R91), the reader of packed words (R83, R84), and after them the encoder. -/

namespace Sys2Proof

/-- The bootstrap slot at a presented address, exact match (30_encoding.md R90, 20_memory.md R64). -/
def BootSlot.ofAddr? (a : Addr) : Option BootSlot :=
  if a = 0 then some .at0
  else if a = 2 then some .at2
  else if a = 4 then some .at4
  else if a = 6 then some .at6
  else none

/-- Rows 1 to 4 of R88: a byte read is matched against the read-side addresses only (R87). -/
def decodeRdb (cfg : Config) (a : Addr) : Instr :=
  if a = cfg.A_ACIA_SR_RD then .rdbAciaSr a
  else if a = cfg.A_ACIA_DR_RD then .rdbAciaDr a
  else if a = cfg.A_TMR_SR_RD then .rdbTmrSr a
  else .rdbMem a

/-- Rows 5 to 12 of R88: a byte write is matched against the write-side addresses only (R87). -/
def decodeWrb (cfg : Config) (a : Addr) (v : Byte) : Instr :=
  if a = cfg.A_ACIA_DR_WR then .wrbAciaDr a v
  else if a = cfg.A_ACIA_CR_WR then .wrbAciaCr a v
  else if a = cfg.A_TMR_RH_WR then .wrbTmrRh a v
  else if a = cfg.A_TMR_RM_WR then .wrbTmrRm a v
  else if a = cfg.A_TMR_RL_WR then .wrbTmrRl a v
  else if a = cfg.A_TMR_CR_WR then .wrbTmrCr a v
  else if a = cfg.A_TMR_SR_WR then .wrbTmrSr a v
  else .wrbMem a v

/-- Rows 13 and 14 of R88; only the operation's own address is tested (R89). -/
def decodeRdw (cfg : Config) (a : Addr) : Instr :=
  if a ∈ cfg.deviceAddrs then .rdwDev a else .rdwMem a

/-- Rows 15 and 16 of R88 (R89). -/
def decodeWrw (cfg : Config) (a : Addr) (w : Word) : Instr :=
  if a ∈ cfg.deviceAddrs then .wrwDev a w else .wrwMem a w

/-- Rows 17 to 19 of R88: the bootstrap addresses are tested first (R90). -/
def decodePeekw (cfg : Config) (a : Addr) : Instr :=
  match BootSlot.ofAddr? a with
  | some b => .peekwBoot b
  | none => if a ∈ cfg.deviceAddrs then .peekwDev a else .peekwMem a

/-- The decoder of R86: the behaviour an operation selects under a configuration.  Total (R91); it looks
at the operation kind and the presented address alone. -/
def decode (cfg : Config) : Op → Instr
  | .rdb a => decodeRdb cfg a
  | .rdw a => decodeRdw cfg a
  | .wrb a v => decodeWrb cfg a v
  | .wrw a w => decodeWrw cfg a w
  | .peekw a => decodePeekw cfg a
  | .sync n => .sync n

/-- `T[51:48]`, the operation code (R83). -/
def Packed.opCode (t : Packed) : BitVec 4 := t.extractLsb' 48 4

/-- `T[47:16]`, the presented address or the cycle count (R83). -/
def Packed.addr (t : Packed) : Addr := t.extractLsb' 16 32

/-- `T[15:0]`, the data (R83). -/
def Packed.data (t : Packed) : Word := t.extractLsb' 0 16

/-- A format A or N operation: its data field must be zero (R83). -/
def noData (d : Word) (o : Op) : Except DecodeError Op :=
  if d = 0 then .ok o else .error .dataNotZero

/-- A `WRB`: bits 15:8 of its data field must be zero (R83). -/
def byteData (a : Addr) (d : Word) : Except DecodeError Op :=
  if d.extractLsb' 8 8 = 0 then .ok (.wrb a (d.extractLsb' 0 8)) else .error .byteTooWide

/-- The operation a packed word spells (R83, R84), or the reason it spells none. -/
def unpack (t : Packed) : Except DecodeError Op :=
  if t.extractLsb' 52 4 ≠ 0 then .error .tooWide
  else match (Packed.opCode t).toNat with
  | 0 => noData (Packed.data t) (.rdb (Packed.addr t))
  | 1 => noData (Packed.data t) (.rdw (Packed.addr t))
  | 2 => byteData (Packed.addr t) (Packed.data t)
  | 3 => .ok (.wrw (Packed.addr t) (Packed.data t))
  | 4 => noData (Packed.data t) (.peekw (Packed.addr t))
  | 5 => noData (Packed.data t) (.sync (Packed.addr t).toNat)
  | _ => .error .noSuchOpCode

/-- The behaviour a packed word selects under a configuration. -/
def decodeWord (cfg : Config) (t : Packed) : Except DecodeError Instr :=
  match unpack t with
  | .ok o => .ok (decode cfg o)
  | .error e => .error e

/-- The behaviour an entry of a trace selects. -/
def Request.decode (cfg : Config) : Request → Except DecodeError Instr
  | .op o => .ok (Sys2Proof.decode cfg o)
  | .word t => decodeWord cfg t

/-- The instruction the decoder reads from a word of spec/opcode_table.json.  The table is computed for
`CFG_REF` (30_encoding.md R99), and its 52-bit `T` is one word with bit 0 the least significant; `nbits`
only says how many bits the table gives the row, so nothing depends on it. -/
def decodeTableWord (_nbits w : Nat) : Option Instr :=
  match decodeWord Config.CFG_REF (BitVec.ofNat 56 w) with
  | .ok i => some i
  | .error _ => none

/-! The encoder. -/

/-- The operation a behaviour belongs to: its row's operation and operands (30_encoding.md R88). -/
def Instr.op : Instr → Op
  | .rdbAciaSr a | .rdbAciaDr a | .rdbTmrSr a | .rdbMem a => .rdb a
  | .wrbAciaDr a v | .wrbAciaCr a v | .wrbTmrRh a v | .wrbTmrRm a v
  | .wrbTmrRl a v | .wrbTmrCr a v | .wrbTmrSr a v | .wrbMem a v => .wrb a v
  | .rdwDev a | .rdwMem a => .rdw a
  | .wrwDev a w | .wrwMem a w => .wrw a w
  | .peekwBoot b => .peekw b.addr
  | .peekwDev a | .peekwMem a => .peekw a
  | .sync n => .sync n

/-- The packing's three fields, padded to whole bytes (R83). -/
def packFields (op : BitVec 4) (a : Addr) (d : Word) : Packed := (0 : BitVec 4) ++ op ++ a ++ d

/-- The packed word of an operation (R83, R84); a `SYNC` whose count needs more than 32 bits has none. -/
def Op.pack : Op → Option Packed
  | .rdb a => some (packFields 0 a 0)
  | .rdw a => some (packFields 1 a 0)
  | .wrb a v => some (packFields 2 a (v.setWidth 16))
  | .wrw a w => some (packFields 3 a w)
  | .peekw a => some (packFields 4 a 0)
  | .sync n => if n < 2 ^ 32 then some (packFields 5 (BitVec.ofNat 32 n) 0) else none

/-- The packed word of a behaviour. -/
def encode (i : Instr) : Option Packed := i.op.pack

end Sys2Proof
end

