-- ==== Sys2Proof/Machine/Memory.lean ====
section
/-! DEFINITION. MemoryImage (10_state.md R21) as a list of cells in one canonical form: indexes strictly rising, below 65536, and no cell that holds what an unlisted index reads as. -/

namespace Sys2Proof.Machine

/-- MemoryImage: the cells that differ from `unlistedByte`, lowest index first. -/
abbrev Memory := List Host.Cell

/-- What an unlisted index reads as: 0x00, the power-on contents of 10_state.md R46.
DESIGN CHOICE of the spec (D13), log entry 3; unsafe where a claim rests on it. -/
def unlistedByte : Byte := 0

/-- The canonical form. -/
abbrev Memory.wf (m : Memory) : Prop :=
  m.Pairwise (fun c d => c.1 < d.1) ∧ ∀ c ∈ m, c.1 < 65536 ∧ c.2 ≠ unlistedByte

/-- The byte at an image index. -/
def Memory.byteAt : Memory → Nat → Byte
  | [], _ => unlistedByte
  | (k, b) :: m, i => if i = k then b else Memory.byteAt m i

/-- Put a cell in front of `m`, unless it holds what an unlisted index reads as. -/
def Memory.consCell (i : Nat) (v : Byte) (m : Memory) : Memory :=
  if v = unlistedByte then m else (i, v) :: m

/-- Store a byte at an image index, keeping the canonical form. -/
def Memory.store : Memory → Nat → Byte → Memory
  | [], i, v => Memory.consCell i v []
  | (k, b) :: m, i, v =>
    if i < k then Memory.consCell i v ((k, b) :: m)
    else if i = k then Memory.consCell i v m
    else (k, b) :: Memory.store m i v

end Sys2Proof.Machine
end

