-- ==== Sys2Proof/Machine/State.lean ====
section
/-! DEFINITION. The state of the block (10_state.md R20) and of the run around it, why a step can stop, and the state at power-on (R46). -/

namespace Sys2Proof.Machine

/-- The codes of the fatal-misuse halt (60_exceptions.md R176). -/
inductive FatalCode where
  | F_ACIA_DATA_READ
  | F_WORD_READ_DEVICE
  | F_WORD_WRITE_DEVICE
  | F_PEEK_DEVICE
  /-- The model's own fifth code, for the reading `UNBOUND_DIR_FATAL` of 93_implementation_defined.md U3
  (log entry 6). -/
  | F_UNBOUND_DIR_READ
deriving DecidableEq, Repr

/-- What the outcome `fatal(code)` carries (R176): the code, the presented address, and the word of a refused `WRW`. -/
structure FatalRecord where
  code : FatalCode
  a : Addr
  w : Option Word
deriving DecidableEq, Repr

/-- What a read returns: a byte or a word (00_scope.md R15). -/
inductive ReadResult where
  | byte (v : Byte)
  | word (w : Word)
deriving DecidableEq, Repr

/-- The state.  The first ten fields are the record `S` of 10_state.md R20, under the spec's names; the last
five are the model's own: the run's constants, its input and its output (log entries 1, 2, 4, 5). -/
structure State where
  img : Memory
  acia_enabled : Bool
  tx : List Byte
  reload : Reload
  counter : Int
  prescaler : Int
  tmr_enabled : Bool
  ipl : Level
  ipl_events : List Level
  halted : Bool
  /-- The `Config` of the run (00_scope.md R7): a constant, written by no operation. -/
  cfg : Config
  /-- The trace still to come, next first (30_encoding.md R98). -/
  pending : List Request
  /-- How many operations the trace has issued; after a fatal one its index is one less (R98). -/
  opsIssued : Nat
  /-- The read results so far, oldest first (R98). -/
  results : List ReadResult
  /-- What the fatal operation recorded, once one has halted the block (60_exceptions.md R176). -/
  fatal : Option FatalRecord
deriving DecidableEq, Repr

/-- Why the machine stops. -/
inductive Fault where
  /-- Raised by every operation in a state with `halted` = true: there it has no outcome (00_scope.md R15,
  60_exceptions.md R179).  Safe: the block is stopped for good. -/
  | halted
deriving DecidableEq, Repr

/-- Why a step has no meaning. -/
inductive Refusal where
  /-- An instruction with no meaning yet, by its mnemonic; raised by `exec` only.  Safe. -/
  | notModelled (mnemonic : String)
  /-- The next word of the trace spells no operation (30_encoding.md R83); raised by `step`.  Safe. -/
  | notAnOperation (why : DecodeError)
  /-- The spec gives no meaning to an ill-formed `Config` (00_scope.md R9); raised by `step`.  Safe. -/
  | illFormedConfig
deriving DecidableEq, Repr

/-- The state at power-on, before the loader runs (10_state.md R46), under a configuration.  The source states
`counter` = 0 alone; the other values are the spec's choice D13 (log entry 3; unsafe where a claim rests on them). -/
def State.powerOn (cfg : Config) : State where
  img := []
  acia_enabled := false
  tx := []
  reload := 0
  counter := 0
  prescaler := 0
  tmr_enabled := false
  ipl := 0
  ipl_events := []
  halted := false
  cfg := cfg
  pending := []
  opsIssued := 0
  results := []
  fatal := none

/-- The machine after reset: power-on under the reference configuration (DESIGN CHOICE, log entry 1). -/
def State.reset : State := State.powerOn Config.CFG_REF

end Sys2Proof.Machine
end

