-- ==== Sys2Proof/Machine/Flags.lean ====
section
/-! DEFINITION. The block has no condition codes (10_state.md R43). What stands here is how a written control or status byte is tested (R34, R38, R40), and the three tests of cycle-sync (42_interval_timer.md R155). -/

namespace Sys2Proof.Machine

/-- An ACIA control write enables exactly when the whole byte is the magic value (10_state.md R34). -/
def isEnableMagic (cfg : Config) (v : Byte) : Bool := v == cfg.ACIA_ENABLE_MAGIC

/-- A timer control write enables exactly when bit 5 is set (42_interval_timer.md R150).  The other bits are
ignored: the spec's choice D18, log entry 10; unsafe if they have effects. -/
def isTimerEnable (v : Byte) : Bool := v &&& Config.TMR_ENABLE_MASK != 0

/-- A timer status write deasserts exactly when the whole byte is 0x01 (42_interval_timer.md R153).  Whole-byte
equality is the spec's choice D17, log entry 10; unsafe if bit 0 alone decides. -/
def isStatusClear (v : Byte) : Bool := v == Config.TMR_SR_CLEAR

/-- Step (a) of cycle-sync: the prescaler after counting `n` cycles (R155). -/
def countCycles (enabled : Bool) (p : Int) (n : Nat) : Int := if enabled = true ∧ 0 ≤ p then p - n else p

/-- Step (b): the prescaler after at most one tick; a tick happens when it is found negative (R155, R159). -/
def tickPrescaler (p : Int) : Int := if p < 0 then p + Config.PRESCALE else p

/-- Step (b): the counter after at most one tick (R155). -/
def tickCounter (p c : Int) : Int := if p < 0 then c - 1 else c

/-- Step (c) is a reload event when the counter is found at or below zero (R155, R157). -/
def isReloadEvent (c : Int) : Bool := decide (c ≤ 0)

end Sys2Proof.Machine
end

