-- ==== Sys2Proof/Machine/Operands.lean ====
section
/-! DEFINITION. Operand forms: the image index of a presented address (30_encoding.md R85), the byte lanes of a word and of the reload value, the bootstrap words. -/

namespace Sys2Proof.Machine

/-- `idx(a)` = a mod 65536 (20_memory.md R51). -/
def idx (a : Addr) : Nat := a.toNat % Config.IMG_SIZE

/-- `idx(a + 1)`; the sum is taken before the reduction (20_memory.md R57). -/
def idxNext (a : Addr) : Nat := (a.toNat + 1) % Config.IMG_SIZE

/-- `w[15:8]`, the byte at the lower address (20_memory.md R55, R56). -/
def hiByte (w : Word) : Byte := w.extractLsb' 8 8

/-- `w[7:0]`, the byte at the higher address. -/
def loByte (w : Word) : Byte := w.extractLsb' 0 8

/-- `hi ∥ lo` (20_memory.md R53). -/
def joinBytes (hi lo : Byte) : Word := hi ++ lo

/-- `reload[23:16] <- v` (42_interval_timer.md R147). -/
def reloadWithHigh (r : Reload) (v : Byte) : Reload := v ++ r.extractLsb' 0 16

/-- `reload[15:8] <- v` (42_interval_timer.md R148). -/
def reloadWithMid (r : Reload) (v : Byte) : Reload := r.extractLsb' 16 8 ++ v ++ r.extractLsb' 0 8

/-- `reload[7:0] <- v` (42_interval_timer.md R149). -/
def reloadWithLow (r : Reload) (v : Byte) : Reload := r.extractLsb' 8 16 ++ v

/-- The word the peek path returns at a bootstrap address (40_bus_memory_ops.md R118). -/
def bootWord (cfg : Config) : BootSlot → Word
  | .at0 => cfg.BOOT_W0
  | .at2 => cfg.BOOT_W2
  | .at4 => cfg.BOOT_W4
  | .at6 => cfg.START_PC

end Sys2Proof.Machine
end

