-- ==== Sys2Proof/Machine/Ops.lean ====
section
/-! DEFINITION. The named operations over the state: the pseudocode primitives of 00_scope.md R14 and the four image primitives of 20_memory.md R52 to R55, with taking the fatal-misuse halt as one shared operation. -/

namespace Sys2Proof.Machine

/-- An operation has a meaning only when the block is not halted (40_bus_memory_ops.md R113, 00_scope.md R15). -/
def whenRunning (s t : State) : Host.Outcome State Fault Refusal :=
  if s.halted then .fault .halted else .next t

/-- `MemRead(a, 1)` (20_memory.md R52). -/
def State.memRead1 (s : State) (a : Addr) : Byte := s.img.byteAt (idx a)

/-- `MemRead(a, 2)`, big-endian (20_memory.md R53). -/
def State.memRead2 (s : State) (a : Addr) : Word :=
  joinBytes (s.img.byteAt (idx a)) (s.img.byteAt (idxNext a))

/-- `MemWrite(a, 1, v)` (20_memory.md R54). -/
def State.memWrite1 (s : State) (a : Addr) (v : Byte) : State :=
  { s with img := s.img.store (idx a) v }

/-- `MemWrite(a, 2, w)`, big-endian, high byte first (20_memory.md R55). -/
def State.memWrite2 (s : State) (a : Addr) (w : Word) : State :=
  { s with img := (s.img.store (idx a) (hiByte w)).store (idxNext a) (loByte w) }

/-- `return v` of a read (00_scope.md R14): the result joins the run's list of read results (log entry 5). -/
def State.returnRead (s : State) (r : ReadResult) : State := { s with results := s.results ++ [r] }

/-- `SetIPL(l)` (60_exceptions.md R183): drive the level and record the call, also when the level does not change. -/
def State.setIPL (s : State) (l : Level) : State := { s with ipl := l, ipl_events := s.ipl_events ++ [l] }

/-- `Tx(b)` (41_serial_port.md R136). -/
def State.transmit (s : State) (b : Byte) : State := { s with tx := s.tx ++ [b] }

/-- Write the serial port's enable (41_serial_port.md R138). -/
def State.setAciaEnabled (s : State) (e : Bool) : State := { s with acia_enabled := e }

/-- Write the timer's enable (42_interval_timer.md R150). -/
def State.setTmrEnabled (s : State) (e : Bool) : State := { s with tmr_enabled := e }

/-- Write the reload value (42_interval_timer.md R147 to R149). -/
def State.setReload (s : State) (r : Reload) : State := { s with reload := r }

/-- Write the timer's two counts (42_interval_timer.md R155). -/
def State.setCounts (s : State) (p c : Int) : State := { s with prescaler := p, counter := c }

/-- `raise Fatal(code)`: the block's one exception (60_exceptions.md R175).  The halt latch is set, no other
field of `S` changes, no value is returned; the code and what R176 has it carry are recorded.  There is no
handler and no vector, and no return from it beside it: nothing clears the latch (R179). -/
def State.raiseFatal (s : State) (code : FatalCode) (a : Addr) (w : Option Word) : State :=
  { s with halted := true, fatal := some ⟨code, a, w⟩ }

/-- The number of a code (60_exceptions.md R176, D20).  The fifth is the model's own, as its name is (log entry 6). -/
def FatalCode.number : FatalCode → Nat
  | .F_ACIA_DATA_READ => 1
  | .F_WORD_READ_DEVICE => 2
  | .F_WORD_WRITE_DEVICE => 3
  | .F_PEEK_DEVICE => 4
  | .F_UNBOUND_DIR_READ => 5

/-- Take the next operation off the trace (30_encoding.md R98): `rest` is what is left of it. -/
def State.issue (s : State) (rest : List Request) : State :=
  { s with pending := rest, opsIssued := s.opsIssued + 1 }

end Sys2Proof.Machine
end

