-- ==== Sys2Proof/Machine/Bus.lean ====
section
/-! DEFINITION. The nine behaviours of the memory-bus multiplexer (40_bus_memory_ops.md). -/

namespace Sys2Proof.Machine

/-- `RDB.MEM` (40_bus_memory_ops.md R110).  Under the reading `UNBOUND_DIR_FATAL` (93_implementation_defined.md
U3, log entry 6) a byte read at a write-only port address halts instead. -/
def execRdbMem (a : Addr) (s : State) : Host.Outcome State Fault Refusal :=
  whenRunning s <|
    if s.cfg.UNBOUND_DIR_FATAL = true ∧ a ∈ s.cfg.wrAddrs then s.raiseFatal .F_UNBOUND_DIR_READ a none
    else s.returnRead (.byte (s.memRead1 a))

/-- `RDW.MEM` (40_bus_memory_ops.md R111). -/
def execRdwMem (a : Addr) (s : State) : Host.Outcome State Fault Refusal :=
  whenRunning s (s.returnRead (.word (s.memRead2 a)))

/-- `WRB.MEM` (40_bus_memory_ops.md R112). -/
def execWrbMem (a : Addr) (v : Byte) (s : State) : Host.Outcome State Fault Refusal :=
  whenRunning s (s.memWrite1 a v)

/-- `WRW.MEM` (40_bus_memory_ops.md R114). -/
def execWrwMem (a : Addr) (w : Word) (s : State) : Host.Outcome State Fault Refusal :=
  whenRunning s (s.memWrite2 a w)

/-- `RDW.DEV` (40_bus_memory_ops.md R115): always fatal. -/
def execRdwDev (a : Addr) (s : State) : Host.Outcome State Fault Refusal :=
  whenRunning s (s.raiseFatal .F_WORD_READ_DEVICE a none)

/-- `WRW.DEV` (40_bus_memory_ops.md R116): always fatal; neither the image nor the port receives any part of `w`. -/
def execWrwDev (a : Addr) (w : Word) (s : State) : Host.Outcome State Fault Refusal :=
  whenRunning s (s.raiseFatal .F_WORD_WRITE_DEVICE a (some w))

/-- `PEEKW.DEV` (40_bus_memory_ops.md R117): always fatal. -/
def execPeekwDev (a : Addr) (s : State) : Host.Outcome State Fault Refusal :=
  whenRunning s (s.raiseFatal .F_PEEK_DEVICE a none)

/-- `PEEKW.BOOT` (40_bus_memory_ops.md R118): the image is not consulted. -/
def execPeekwBoot (slot : BootSlot) (s : State) : Host.Outcome State Fault Refusal :=
  whenRunning s (s.returnRead (.word (bootWord s.cfg slot)))

/-- `PEEKW.MEM` (40_bus_memory_ops.md R119). -/
def execPeekwMem (a : Addr) (s : State) : Host.Outcome State Fault Refusal :=
  whenRunning s (s.returnRead (.word (s.memRead2 a)))

end Sys2Proof.Machine
end

