-- ==== Sys2Proof/Machine/Serial.lean ====
section
/-! DEFINITION. The four behaviours of the serial port (41_serial_port.md). -/

namespace Sys2Proof.Machine

/-- `RDB.ACIA_SR` (41_serial_port.md R132): a constant of the configuration, whatever the state. -/
def execRdbAciaSr (_a : Addr) (s : State) : Host.Outcome State Fault Refusal :=
  whenRunning s (s.returnRead (.byte s.cfg.ACIA_TX_READY))

/-- `RDB.ACIA_DR` (41_serial_port.md R133): always fatal. -/
def execRdbAciaDr (a : Addr) (s : State) : Host.Outcome State Fault Refusal :=
  whenRunning s (s.raiseFatal .F_ACIA_DATA_READ a none)

/-- `WRB.ACIA_DR` (41_serial_port.md R136): transmits whatever `acia_enabled` is. -/
def execWrbAciaDr (_a : Addr) (v : Byte) (s : State) : Host.Outcome State Fault Refusal :=
  whenRunning s (s.transmit v)

/-- `WRB.ACIA_CR` (41_serial_port.md R138). -/
def execWrbAciaCr (_a : Addr) (v : Byte) (s : State) : Host.Outcome State Fault Refusal :=
  whenRunning s (s.setAciaEnabled (isEnableMagic s.cfg v))

end Sys2Proof.Machine
end

