-- ==== Sys2Proof/Machine/Timer.lean ====
section
/-! DEFINITION. The seven behaviours of the interval timer (42_interval_timer.md). -/

namespace Sys2Proof.Machine

/-- `RDB.TMR_SR` (42_interval_timer.md R152): falls through to the image. -/
def execRdbTmrSr (a : Addr) (s : State) : Host.Outcome State Fault Refusal :=
  whenRunning s (s.returnRead (.byte (s.memRead1 a)))

/-- `WRB.TMR_RH` (42_interval_timer.md R147). -/
def execWrbTmrRh (_a : Addr) (v : Byte) (s : State) : Host.Outcome State Fault Refusal :=
  whenRunning s (s.setReload (reloadWithHigh s.reload v))

/-- `WRB.TMR_RM` (42_interval_timer.md R148). -/
def execWrbTmrRm (_a : Addr) (v : Byte) (s : State) : Host.Outcome State Fault Refusal :=
  whenRunning s (s.setReload (reloadWithMid s.reload v))

/-- `WRB.TMR_RL` (42_interval_timer.md R149). -/
def execWrbTmrRl (_a : Addr) (v : Byte) (s : State) : Host.Outcome State Fault Refusal :=
  whenRunning s (s.setReload (reloadWithLow s.reload v))

/-- `WRB.TMR_CR` (42_interval_timer.md R150): no preload, no clear, no change of level. -/
def execWrbTmrCr (_a : Addr) (v : Byte) (s : State) : Host.Outcome State Fault Refusal :=
  whenRunning s (s.setTmrEnabled (isTimerEnable v))

/-- `WRB.TMR_SR` (42_interval_timer.md R153). -/
def execWrbTmrSr (_a : Addr) (v : Byte) (s : State) : Host.Outcome State Fault Refusal :=
  whenRunning s (if isStatusClear v then s.setIPL Config.IPL_IDLE else s)

/-- The interrupt request of a reload event, under the enable bit (42_interval_timer.md R155 step (c), R182). -/
def State.requestIfEnabled (s : State) : State :=
  if s.tmr_enabled then s.setIPL Config.TMR_IRQ_LEVEL else s

/-- Steps (b) and (c) of cycle-sync, on the prescaler `p` that step (a) left (42_interval_timer.md R155). -/
def State.tickAndReload (s : State) (p : Int) : State :=
  if isReloadEvent (tickCounter p s.counter) then
    (s.setCounts (tickPrescaler p) s.reload.toNat).requestIfEnabled
  else
    s.setCounts (tickPrescaler p) (tickCounter p s.counter)

/-- Cycle-sync by 42_interval_timer.md R155: steps (b) and (c) run whatever the enable bit is. -/
def State.cycleSync (s : State) (n : Nat) : State :=
  s.tickAndReload (countCycles s.tmr_enabled s.prescaler n)

/-- `SYNC` (42_interval_timer.md R155).  R155 is the setting `literal` of `SYNC_GATE`, the spec's reading D14;
under `whole` a disabled timer does nothing at all (93_implementation_defined.md U4, log entry 7). -/
def execSync (n : Nat) (s : State) : Host.Outcome State Fault Refusal :=
  whenRunning s <|
    match s.cfg.SYNC_GATE with
    | .literal => s.cycleSync n
    | .whole => if s.tmr_enabled then s.cycleSync n else s

end Sys2Proof.Machine
end

