-- ==== Sys2Proof/Machine/Dispatch.lean ====
section
/-! DEFINITION. One arm per behaviour of 30_encoding.md R88, in the table's order. -/

namespace Sys2Proof.Machine

def exec (i : Instr) (s : State) : Host.Outcome State Fault Refusal :=
  match i with
  | .rdbAciaSr a => Sys2Proof.Machine.execRdbAciaSr a s
  | .rdbAciaDr a => Sys2Proof.Machine.execRdbAciaDr a s
  | .rdbTmrSr a => Sys2Proof.Machine.execRdbTmrSr a s
  | .rdbMem a => Sys2Proof.Machine.execRdbMem a s
  | .wrbAciaDr a v => Sys2Proof.Machine.execWrbAciaDr a v s
  | .wrbAciaCr a v => Sys2Proof.Machine.execWrbAciaCr a v s
  | .wrbTmrRh a v => Sys2Proof.Machine.execWrbTmrRh a v s
  | .wrbTmrRm a v => Sys2Proof.Machine.execWrbTmrRm a v s
  | .wrbTmrRl a v => Sys2Proof.Machine.execWrbTmrRl a v s
  | .wrbTmrCr a v => Sys2Proof.Machine.execWrbTmrCr a v s
  | .wrbTmrSr a v => Sys2Proof.Machine.execWrbTmrSr a v s
  | .wrbMem a v => Sys2Proof.Machine.execWrbMem a v s
  | .rdwDev a => Sys2Proof.Machine.execRdwDev a s
  | .rdwMem a => Sys2Proof.Machine.execRdwMem a s
  | .wrwDev a w => Sys2Proof.Machine.execWrwDev a w s
  | .wrwMem a w => Sys2Proof.Machine.execWrwMem a w s
  | .peekwBoot slot => Sys2Proof.Machine.execPeekwBoot slot s
  | .peekwDev a => Sys2Proof.Machine.execPeekwDev a s
  | .peekwMem a => Sys2Proof.Machine.execPeekwMem a s
  | .sync n => Sys2Proof.Machine.execSync n s

end Sys2Proof.Machine
end

