-- ==== Sys2Proof/Machine/Step.lean ====
section
/-! DEFINITION. One step: the next operation of the trace, decoded under the run's configuration and performed (30_encoding.md R98, R86). -/

namespace Sys2Proof.Machine

/-- One step of the run.  In a halted state nothing has an outcome (00_scope.md R15); an ill-formed `Config` has
no meaning (R9); with no operation left the block does nothing (42_interval_timer.md R145; DESIGN CHOICE, log
entry 2, safe: the state stays as it is). -/
def step (s : State) : Host.Outcome State Fault Refusal :=
  if s.halted then .fault .halted
  else if s.cfg.WellFormed then
    match s.pending with
    | [] => .next s
    | r :: rest =>
      match r.decode s.cfg with
      | .ok i => exec i (s.issue rest)
      | .error e => .refused (.notAnOperation e)
  else .refused .illFormedConfig

/-- Place a packed word as the next operation of the trace; the trace is loaded from outside the block
(log entry 2). -/
def State.withFetchWord (s : State) (_nbits w : Nat) : State :=
  { s with pending := .word (BitVec.ofNat 56 w) :: s.pending }

end Sys2Proof.Machine
end

