-- ==== Sys2Proof/Machine/Loader.lean ====
section
/-! DEFINITION. The host's loader (70_reset_and_hazards.md R211): what it does to the image before a run, and the reading of its text records. -/

namespace Sys2Proof.Machine

/-- How a load ended: the state it left, the bytes written, and whether it succeeded. -/
structure LoadResult where
  state : State
  count : Nat
  ok : Bool
deriving DecidableEq, Repr

/-- One record: `img[A + i] <- b_i`, in order.  A target beyond the image aborts the load with whatever was
already written left in place; nothing wraps and no address is decoded (R211). -/
def loadBytes : Nat → List Byte → State → LoadResult
  | _, [], s => ⟨s, 0, true⟩
  | A, b :: bs, s =>
    if A < Config.IMG_SIZE then
      let r := loadBytes (A + 1) bs { s with img := s.img.store A b }
      ⟨r.state, r.count + 1, r.ok⟩
    else ⟨s, 0, false⟩

/-- The records of a text in order, up to the first failure (R211). -/
def loadRecords : List (Nat × List Byte) → State → LoadResult
  | [], s => ⟨s, 0, true⟩
  | (A, bs) :: rs, s =>
    let r := loadBytes A bs s
    if r.ok then
      let t := loadRecords rs r.state
      ⟨t.state, r.count + t.count, t.ok⟩
    else r

/-- A hexadecimal digit's value; both cases of letters are read (DESIGN CHOICE, log entry 13). -/
def hexDigit (c : Char) : Option Nat :=
  if '0' ≤ c ∧ c ≤ '9' then some (c.toNat - '0'.toNat)
  else if 'a' ≤ c ∧ c ≤ 'f' then some (c.toNat - 'a'.toNat + 10)
  else if 'A' ≤ c ∧ c ≤ 'F' then some (c.toNat - 'A'.toNat + 10)
  else none

/-- The value of a run of hexadecimal digits read on top of `acc`. -/
def hexDigits : Nat → List Char → Option Nat
  | acc, [] => some acc
  | acc, c :: cs =>
    match hexDigit c with
    | some d => hexDigits (16 * acc + d) cs
    | none => none

/-- The value of a hexadecimal token of one digit or more. -/
def hexToken (cs : List Char) : Option Nat := if cs = [] then none else hexDigits 0 cs

/-- The text before a `#` (R211). -/
def dropComment : List Char → List Char
  | [] => []
  | c :: cs => if c = '#' then [] else c :: dropComment cs

/-- Cut a text at every character that `sep` holds of; empty pieces are kept. -/
def splitAtChars (sep : Char → Bool) : List Char → List (List Char)
  | [] => [[]]
  | c :: cs =>
    match splitAtChars sep cs with
    | [] => [[c]]
    | p :: ps => if sep c then [] :: p :: ps else (c :: p) :: ps

/-- The whitespace-delimited tokens of a line (R211).  That whitespace is space, tab and carriage return, and
nothing else: DESIGN CHOICE, log entry 13. -/
def tokens (line : List Char) : List (List Char) :=
  (splitAtChars (fun c => c = ' ' ∨ c = '\t' ∨ c = '\r') line).filter (· ≠ [])

/-- The address token: hexadecimal, with an optional trailing colon (R211).  A token with a `0x` prefix is not
in the source (91_not_in_source.md N14); it is read as no address, so that its line is skipped (DESIGN CHOICE, log
entry 13). -/
def addressToken (cs : List Char) : Option Nat :=
  if cs.getLast? = some ':' then hexToken cs.dropLast else hexToken cs

/-- What one line of a loader text means. -/
inductive LineMeaning where
  /-- A blank line, a comment, or one whose first token is no address: skipped without error (R211). -/
  | skip
  | record (A : Nat) (bytes : List Byte)
  /-- A byte token that is malformed or above 0xFF: not in the source (91_not_in_source.md N14, log entry 13). -/
  | silent
deriving DecidableEq, Repr

/-- The byte tokens of a line, if every one is a hexadecimal byte. -/
def byteTokens : List (List Char) → Option (List Byte)
  | [] => some []
  | t :: ts =>
    match hexToken t, byteTokens ts with
    | some v, some bs => if v < 256 then some (BitVec.ofNat 8 v :: bs) else none
    | _, _ => none

/-- The meaning of one line (R211). -/
def lineMeaning (line : List Char) : LineMeaning :=
  match tokens (dropComment line) with
  | [] => .skip
  | a :: ts =>
    match addressToken a with
    | none => .skip
    | some A =>
      match byteTokens ts with
      | some bs => .record A bs
      | none => .silent

/-- The records of a text, line by line. -/
structure TextRecords where
  /-- The records before the first line whose meaning is not in the source, or all of them. -/
  records : List (Nat × List Byte)
  /-- Whether there is such a line. -/
  silent : Bool
deriving DecidableEq, Repr

/-- Read a text's lines, up to one whose meaning is not in the source. -/
def textRecords : List (List Char) → TextRecords
  | [] => ⟨[], false⟩
  | l :: ls =>
    match lineMeaning l with
    | .skip => textRecords ls
    | .record A bs => ⟨(A, bs) :: (textRecords ls).records, (textRecords ls).silent⟩
    | .silent => ⟨[], true⟩

/-- Load a text (R211): its records in order, up to the first failure.  A line ends at a line feed and nowhere
else (DESIGN CHOICE, log entry 13).  None where the load comes to a line whose
meaning is not in the source (log entry 13); a load aborted before such a line never comes to it. -/
def loadText (text : List Char) (s : State) : Option LoadResult :=
  let rs := textRecords (splitAtChars (· = '\n') text)
  let r := loadRecords rs.records s
  if r.ok && rs.silent then none else some r

/-- Load a file: its text, or none where the file cannot be opened, which is a failed load that writes nothing
(R211). -/
def loadFile (file : Option (List Char)) (s : State) : Option LoadResult :=
  match file with
  | none => some ⟨s, 0, false⟩
  | some text => loadText text s

end Sys2Proof.Machine
end

