-- ==== Sys2Proof/Machine/Pseudo.lean ====
section
/-! DEFINITION. The pseudo-operations of the trace notation, as expansions (30_encoding.md R97), and the operations of a CPU reset (70_reset_and_hazards.md R212). -/

namespace Sys2Proof.Machine

/-- `STEP n { op1; ...; opk }`: the operations of one CPU instruction, then its cycle-sync (R97). -/
def stepOps (n : Nat) (ops : List Op) : List Op := ops ++ [.sync n]

/-- `TMR_LOAD v`: high, mid, low, in this order (R97). -/
def tmrLoad (cfg : Config) (v : Reload) : List Op :=
  [.wrb cfg.A_TMR_RH_WR (v.extractLsb' 16 8), .wrb cfg.A_TMR_RM_WR (v.extractLsb' 8 8),
   .wrb cfg.A_TMR_RL_WR (v.extractLsb' 0 8)]

/-- `TMR_ON` (R97). -/
def tmrOn (cfg : Config) : List Op := [.wrb cfg.A_TMR_CR_WR 0x20]

/-- `TMR_OFF` (R97). -/
def tmrOff (cfg : Config) : List Op := [.wrb cfg.A_TMR_CR_WR 0x00]

/-- `TMR_ACK` (R97). -/
def tmrAck (cfg : Config) : List Op := [.wrb cfg.A_TMR_SR_WR 0x01]

/-- `PUTC b` (R97). -/
def putc (cfg : Config) (b : Byte) : List Op := [.wrb cfg.A_ACIA_DR_WR b]

/-- `SYNC1 k`: `SYNC 1` repeated `k` times (R97). -/
def sync1 (k : Nat) : List Op := List.replicate k (.sync 1)

/-- The peeks by which the CPU core takes its reset vector.  Their order is not in the source and does not
matter (R212). -/
def cpuReset : List Op := [.peekw 0, .peekw 2, .peekw 4, .peekw 6]

end Sys2Proof.Machine
end

