-- ==== Sys2Proof/Machine/HostProtocol.lean ====
section
/-! DEFINITION. The host around the block (70_reset_and_hazards.md R210 to R217): what it does before a run, the trace loop and the order in which operations reach the block, and how a run ends. The CPU core stands in it as an argument. -/

namespace Sys2Proof.Machine

/-- One bus operation a CPU instruction may make (70_reset_and_hazards.md R213, item 3). -/
inductive Access where
  | rdb (a : Addr)
  | rdw (a : Addr)
  | wrb (a : Addr) (v : Byte)
  | wrw (a : Addr) (w : Word)
deriving DecidableEq, Repr

/-- The operation of an access. -/
def Access.op : Access → Op
  | .rdb a => .rdb a
  | .rdw a => .rdw a
  | .wrb a v => .wrb a v
  | .wrw a w => .wrw a w

/-- What the CPU core and the host bring to one step: the program counter, the peeks of a disassembly, the
instruction's accesses in program order, and the cycles it consumed (R213). -/
structure CpuStep where
  pc : Addr
  disasm : List Addr
  accesses : List Access
  cycles : Nat
deriving DecidableEq, Repr

/-- The operations of a step after its first peek (R213, items 2 to 4). -/
def CpuStep.ops (c : CpuStep) : List Op :=
  c.disasm.map .peekw ++ stepOps c.cycles (c.accesses.map Access.op)

/-- The bus master presents one operation, ahead of whatever trace stands in the state. -/
def present (o : Op) (s : State) : Host.Outcome State Fault Refusal :=
  step { s with pending := .op o :: s.pending }

/-- Present operations in order, up to a fatal one: after it no operation happens (60_exceptions.md R178). -/
def presentAll : List Op → State → Host.Outcome State Fault Refusal
  | [], s => .next s
  | o :: os, s =>
    match present o s with
    | .next t => if t.halted then .next t else presentAll os t
    | .fault r => .fault r
    | .refused r => .refused r

/-- How a run ends (70_reset_and_hazards.md R214), with the state as it then stands. -/
inductive RunEnd where
  /-- (a) the instruction cap is reached, after the last step's `SYNC`: a good end. -/
  | capReached (s : State)
  /-- (b) the peek at the program counter returned a word the CPU core calls illegal: a good end. -/
  | illegalWord (s : State)
  /-- (c) an operation was fatal: a failed run. -/
  | fatalMisuse (s : State)
  /-- No run: the load failed, with what it had written left in place (R211, R216, R217). -/
  | loadFailed (s : State)
  /-- No run: the block was halted before it began, or its `Config` is ill formed (00_scope.md R9, R15). -/
  | noRun
deriving DecidableEq, Repr

/-- Whether a read result is a word the CPU core calls illegal. -/
def isIllegal (illegal : List Word) : Option ReadResult → Bool
  | some (.word w) => decide (w ∈ illegal)
  | _ => false

/-- The trace loop for at most a given number of instructions (R213, R214).  `illegal` is the host's set of
illegal words (91_not_in_source.md N12); `cpu` is the CPU core, which is outside the spec. -/
def traceLoop (illegal : List Word) (cpu : State → CpuStep) : Nat → State → RunEnd
  | 0, s => .capReached s
  | cap + 1, s =>
    match present (.peekw (cpu s).pc) s with
    | .next t =>
      if t.halted then .fatalMisuse t
      else if isIllegal illegal t.results.getLast? then .illegalWord t
      else
        match presentAll (cpu s).ops t with
        | .next u => if u.halted then .fatalMisuse u else traceLoop illegal cpu cap u
        | .fault _ => .noRun
        | .refused _ => .noRun
    | .fault _ => .noRun
    | .refused _ => .noRun

/-- What the host does once the program is loaded: it resets the CPU core and runs the trace loop
(70_reset_and_hazards.md R212, R217). -/
def runLoaded (illegal : List Word) (cpu : State → CpuStep) (cap : Nat) (s : State) : RunEnd :=
  match presentAll cpuReset s with
  | .next t => if t.halted then .fatalMisuse t else traceLoop illegal cpu cap t
  | .fault _ => .noRun
  | .refused _ => .noRun

/-- A whole run, in the order of 70_reset_and_hazards.md R217: power-on under a chosen `Config`, the load, no run
where it failed, the CPU reset, the trace loop.  None where the load comes to a line whose meaning is not in the
source (R211, log entry 13). -/
def hostRun (cfg : Config) (file : Option (List Char)) (illegal : List Word) (cpu : State → CpuStep) (cap : Nat) :
    Option RunEnd :=
  (loadFile file (State.powerOn cfg)).map fun r =>
    if r.ok then runLoaded illegal cpu cap r.state else .loadFailed r.state

/-- The bytes of the default output channel: every byte transmitted (70_reset_and_hazards.md R215). -/
def channelBytes (s : State) : List Byte := s.tx

/-- The bytes of the capture stream, created empty before the run from power-on: every byte transmitted, if the
host has the stream open, and otherwise none, which the run does not notice (70_reset_and_hazards.md R215, R216). -/
def captureBytes (isOpen : Bool) (s : State) : List Byte := if isOpen then s.tx else []

end Sys2Proof.Machine
end

