-- ==== Sys2Proof/Machine/OpcodeTable.lean ====
section
/-! DEFINITION. spec/opcode_table.json as data (30_encoding.md R99): match, mask and priority of its 41 rows, computed for CFG_REF, and how a packed word selects a row. -/

namespace Sys2Proof.Machine

/-- One row of the table: the number of its behaviour (30_encoding.md R88), `match`, `mask`, `priority`. -/
structure TableRow where
  behaviour : Nat
  bits : BitVec 52
  mask : BitVec 52
  priority : Nat
deriving DecidableEq, Repr

/-- The rows of `RDB`. -/
def rowsRdb : List TableRow :=
  [⟨1, 0x0000100400000, 0xFFFFFFFFFFFFF, 2⟩,
   ⟨2, 0x0000100420000, 0xFFFFFFFFFFFFF, 2⟩,
   ⟨3, 0x0000100350000, 0xFFFFFFFFFFFFF, 2⟩,
   ⟨4, 0x0000000000000, 0xF00000000FFFF, 1⟩]

/-- The rows of `WRB`. -/
def rowsWrb : List TableRow :=
  [⟨5, 0x2000100420000, 0xFFFFFFFFFFF00, 2⟩,
   ⟨6, 0x2000100400000, 0xFFFFFFFFFFF00, 2⟩,
   ⟨7, 0x2000100270000, 0xFFFFFFFFFFF00, 2⟩,
   ⟨8, 0x2000100290000, 0xFFFFFFFFFFF00, 2⟩,
   ⟨9, 0x20001002B0000, 0xFFFFFFFFFFF00, 2⟩,
   ⟨10, 0x2000100210000, 0xFFFFFFFFFFF00, 2⟩,
   ⟨11, 0x2000100350000, 0xFFFFFFFFFFF00, 2⟩,
   ⟨12, 0x2000000000000, 0xF00000000FF00, 1⟩]

/-- The rows of `RDW`. -/
def rowsRdw : List TableRow :=
  [⟨13, 0x1000100210000, 0xFFFFFFFFFFFFF, 2⟩,
   ⟨13, 0x1000100270000, 0xFFFFFFFFFFFFF, 2⟩,
   ⟨13, 0x1000100290000, 0xFFFFFFFFFFFFF, 2⟩,
   ⟨13, 0x10001002B0000, 0xFFFFFFFFFFFFF, 2⟩,
   ⟨13, 0x1000100350000, 0xFFFFFFFFFFFFF, 2⟩,
   ⟨13, 0x1000100400000, 0xFFFFFFFFFFFFF, 2⟩,
   ⟨13, 0x1000100420000, 0xFFFFFFFFFFFFF, 2⟩,
   ⟨14, 0x1000000000000, 0xF00000000FFFF, 1⟩]

/-- The rows of `WRW`. -/
def rowsWrw : List TableRow :=
  [⟨15, 0x3000100210000, 0xFFFFFFFFF0000, 2⟩,
   ⟨15, 0x3000100270000, 0xFFFFFFFFF0000, 2⟩,
   ⟨15, 0x3000100290000, 0xFFFFFFFFF0000, 2⟩,
   ⟨15, 0x30001002B0000, 0xFFFFFFFFF0000, 2⟩,
   ⟨15, 0x3000100350000, 0xFFFFFFFFF0000, 2⟩,
   ⟨15, 0x3000100400000, 0xFFFFFFFFF0000, 2⟩,
   ⟨15, 0x3000100420000, 0xFFFFFFFFF0000, 2⟩,
   ⟨16, 0x3000000000000, 0xF000000000000, 1⟩]

/-- The rows of `PEEKW`. -/
def rowsPeekw : List TableRow :=
  [⟨17, 0x4000000000000, 0xFFFFFFFFFFFFF, 3⟩,
   ⟨17, 0x4000000020000, 0xFFFFFFFFFFFFF, 3⟩,
   ⟨17, 0x4000000040000, 0xFFFFFFFFFFFFF, 3⟩,
   ⟨17, 0x4000000060000, 0xFFFFFFFFFFFFF, 3⟩,
   ⟨18, 0x4000100210000, 0xFFFFFFFFFFFFF, 2⟩,
   ⟨18, 0x4000100270000, 0xFFFFFFFFFFFFF, 2⟩,
   ⟨18, 0x4000100290000, 0xFFFFFFFFFFFFF, 2⟩,
   ⟨18, 0x40001002B0000, 0xFFFFFFFFFFFFF, 2⟩,
   ⟨18, 0x4000100350000, 0xFFFFFFFFFFFFF, 2⟩,
   ⟨18, 0x4000100400000, 0xFFFFFFFFFFFFF, 2⟩,
   ⟨18, 0x4000100420000, 0xFFFFFFFFFFFFF, 2⟩,
   ⟨19, 0x4000000000000, 0xF00000000FFFF, 1⟩]

/-- The rows of `SYNC`. -/
def rowsSync : List TableRow :=
  [⟨20, 0x5000000000000, 0xF00000000FFFF, 1⟩]

/-- The table. -/
def opcodeTable : List TableRow := rowsRdb ++ rowsWrb ++ rowsRdw ++ rowsWrw ++ rowsPeekw ++ rowsSync

/-- The row of the highest priority among those that match `T`; there is never a tie (R99). -/
def selectRow : List TableRow → BitVec 52 → Option TableRow
  | [], _ => none
  | r :: rs, t =>
    if t &&& r.mask = r.bits then
      match selectRow rs t with
      | some q => if r.priority < q.priority then some q else some r
      | none => some r
    else selectRow rs t

/-- The number of a behaviour in 30_encoding.md R88. -/
def behaviourNumber : Instr → Nat
  | .rdbAciaSr .. => 1
  | .rdbAciaDr .. => 2
  | .rdbTmrSr .. => 3
  | .rdbMem .. => 4
  | .wrbAciaDr .. => 5
  | .wrbAciaCr .. => 6
  | .wrbTmrRh .. => 7
  | .wrbTmrRm .. => 8
  | .wrbTmrRl .. => 9
  | .wrbTmrCr .. => 10
  | .wrbTmrSr .. => 11
  | .wrbMem .. => 12
  | .rdwDev .. => 13
  | .rdwMem .. => 14
  | .wrwDev .. => 15
  | .wrwMem .. => 16
  | .peekwBoot .. => 17
  | .peekwDev .. => 18
  | .peekwMem .. => 19
  | .sync .. => 20

end Sys2Proof.Machine
end

