-- ==== Sys2Proof/Machine/Width32.lean ====
section
/-! DEFINITION. The machine-width note, 42_interval_timer.md R167: cycle-sync on 32-bit two's-complement integers, an implementation that holds the two counts in them, and when no intermediate value leaves their range. -/

namespace Sys2Proof.Machine

/-- Step (a) of 42_interval_timer.md R155 on 32 bits. -/
def countCycles32 (enabled : Bool) (p : BitVec 32) (n : Nat) : BitVec 32 :=
  if enabled = true ∧ 0 ≤ p.toInt then p - BitVec.ofNat 32 n else p

/-- Step (b) on 32 bits, the prescaler. -/
def tickPrescaler32 (p : BitVec 32) : BitVec 32 := if p.toInt < 0 then p + BitVec.ofInt 32 Config.PRESCALE else p

/-- Step (b) on 32 bits, the counter. -/
def tickCounter32 (p c : BitVec 32) : BitVec 32 := if p.toInt < 0 then c - 1 else c

/-- Steps (b) and (c) on 32 bits, on the prescaler `p` that step (a) left. -/
def State.tickAndReload32 (s : State) (p : BitVec 32) : State :=
  let c := tickCounter32 p (BitVec.ofInt 32 s.counter)
  if isReloadEvent c.toInt then
    (s.setCounts (tickPrescaler32 p).toInt (s.reload.setWidth 32).toInt).requestIfEnabled
  else
    s.setCounts (tickPrescaler32 p).toInt c.toInt

/-- Cycle-sync on 32 bits (42_interval_timer.md R167). -/
def State.cycleSync32 (s : State) (n : Nat) : State :=
  s.tickAndReload32 (countCycles32 s.tmr_enabled (BitVec.ofInt 32 s.prescaler) n)

/-- `SYNC` of an implementation that holds the counts in 32 bits, under either setting of `SYNC_GATE`. -/
def execSync32 (n : Nat) (s : State) : Host.Outcome State Fault Refusal :=
  whenRunning s <|
    match s.cfg.SYNC_GATE with
    | .literal => s.cycleSync32 n
    | .whole => if s.tmr_enabled then s.cycleSync32 n else s

/-- A behaviour of that implementation: only `SYNC` computes on the counts (10_state.md R25, R26). -/
def exec32 (i : Instr) (s : State) : Host.Outcome State Fault Refusal :=
  match i with
  | .sync n => execSync32 n s
  | i => exec i s

/-- Perform behaviours of that implementation in order, as far as they complete. -/
def execAll32 : List Instr → State → Host.Outcome State Fault Refusal
  | [], s => .next s
  | i :: is, s =>
    match exec32 i s with
    | .next t => execAll32 is t
    | .fault r => .fault r
    | .refused r => .refused r

/-- The range of 32-bit two's complement. -/
abbrev inRange32 (x : Int) : Prop := -2 ^ 31 ≤ x ∧ x ≤ 2 ^ 31 - 1

/-- No value that `SYNC n` meets in a state leaves the range (42_interval_timer.md R167). -/
structure State.Fits32 (s : State) (n : Nat) : Prop where
  prescaler : inRange32 s.prescaler
  counter : inRange32 s.counter
  /-- p - n. -/
  counted : inRange32 (countCycles s.tmr_enabled s.prescaler n)
  /-- p + 32. -/
  ticked : inRange32 (tickPrescaler (countCycles s.tmr_enabled s.prescaler n))
  /-- c - 1. -/
  decremented : inRange32 (tickCounter (countCycles s.tmr_enabled s.prescaler n) s.counter)

end Sys2Proof.Machine
end

