-- ==== Sys2Proof/Safety.lean ====
section
/-! DEFINITION. What counts as a safe run: the invariant of the block, a run that is not a failed one, and the careful operations, on which the readings the spec chose between agree. -/

namespace Sys2Proof.Machine

/-- The level an event list leaves in force: the last one driven, 0 before the first (60_exceptions.md R183). -/
def lastLevel (events : List Level) : Level := events.getLastD Config.IPL_IDLE

/-- The invariant of the block. -/
structure State.Inv (s : State) : Prop where
  /-- The image keeps its canonical form. -/
  img_wf : s.img.wf
  /-- 42_interval_timer.md R164. -/
  counter_nonneg : 0 ≤ s.counter
  counter_lt : s.counter < 2 ^ 24
  /-- 42_interval_timer.md R162. -/
  prescaler_le : s.prescaler ≤ 31
  /-- 60_exceptions.md R183: the latch holds the level last driven, and only 0 and 5 are ever driven. -/
  ipl_last : s.ipl = lastLevel s.ipl_events
  levels : ∀ l ∈ s.ipl_events, l = Config.IPL_IDLE ∨ l = Config.TMR_IRQ_LEVEL
  /-- 60_exceptions.md R175, R176: the block is halted exactly when a fatal misuse stands recorded, and its
  address is a device address. -/
  halted_iff : s.halted = s.fatal.isSome
  fatal_device : ∀ r ∈ s.fatal, r.a ∈ s.cfg.deviceAddrs

/-- A run that has not failed: no fatal misuse so far (60_exceptions.md R175, R179; 70_reset_and_hazards.md R214). -/
abbrev State.good (s : State) : Prop := s.halted = false

/-- What the outcome `fatal(code)` carries, the code by its number, in a state that has halted
(60_exceptions.md R176). -/
def State.fatalOutcome (s : State) : Option (Nat × Addr × Option Word) :=
  if s.halted then s.fatal.map (fun r => (r.code.number, r.a, r.w)) else none

/-- Perform behaviours in order, as far as they complete. -/
def execAll : List Instr → State → Host.Outcome State Fault Refusal
  | [], s => .next s
  | i :: is, s =>
    match exec i s with
    | .next t => execAll is t
    | .fault r => .fault r
    | .refused r => .refused r

/-- Whether a behaviour is a read: its operation returns a value unless it is fatal (30_encoding.md R80). -/
def isRead (i : Instr) : Bool :=
  match i.op with
  | .rdb _ | .rdw _ | .peekw _ => true
  | .wrb _ _ | .wrw _ _ | .sync _ => false

/-- The ticks that happen while `c` cycles are counted from a prescaler of `p` (42_interval_timer.md R163):
none if c ≤ p, and ⌈(c - p) / 32⌉ otherwise. -/
def ticks (p c : Nat) : Nat := if c ≤ p then 0 else (c - p + 31) / 32

/-- The image indexes behind the device addresses: idx(d) for d in `DEVICE_ADDRS` (20_memory.md R65). -/
def shadowIndexes (cfg : Config) : List Nat := cfg.deviceAddrs.map idx

/-- U2: `a` is an alias of a device address, not one itself (93_implementation_defined.md). -/
abbrev isAlias (cfg : Config) (a : Addr) : Prop := a ∉ cfg.deviceAddrs ∧ idx a ∈ shadowIndexes cfg

/-- An operation whose effect is the same under every reading 93_implementation_defined.md sets out in U2, U3,
U5 and U8: it uses no alias of a device or bootstrap address, no byte port in the unbound direction, reads no
image byte that lies under a device address, and writes no status byte on which "equals 1" and "bit 0 set" differ. -/
def careful (cfg : Config) : Op → Bool
  | .rdb a => decide (¬ isAlias cfg a) && decide (a ∈ cfg.wrAddrs → a ∈ cfg.rdAddrs) &&
      decide (a = cfg.A_TMR_SR_RD → idx a ∉ cfg.wrAddrs.map idx)
  | .rdw a => decide (¬ isAlias cfg a) && decide (idxNext a ∉ shadowIndexes cfg)
  | .wrb a v => decide (¬ isAlias cfg a) && decide (a ∈ cfg.rdAddrs → a ∈ cfg.wrAddrs) &&
      decide (a = cfg.A_TMR_SR_WR → v.getLsbD 0 = true → v = 1)
  | .wrw a _ => decide (¬ isAlias cfg a)
  | .peekw a => decide (¬ isAlias cfg a) && decide (idxNext a ∉ shadowIndexes cfg) &&
      decide (a ∉ Config.BOOT_ADDRS → idx a ∉ Config.BOOT_ADDRS.map idx)
  | .sync _ => true

/-- U9 and U2: no device port stands at a bootstrap address, and two addresses of one direction do not share an
image index (93_implementation_defined.md). -/
abbrev configCareful (cfg : Config) : Prop :=
  (∀ a ∈ cfg.deviceAddrs, a ∉ Config.BOOT_ADDRS) ∧ (cfg.rdAddrs.map idx).Nodup ∧ (cfg.wrAddrs.map idx).Nodup

/-- An address masked to the image's 16 bits. -/
def maskAddr (a : Addr) : Addr := BitVec.ofNat 32 (idx a)

/-- The other reading of U2, as 92_eei_decisions.md D2 writes it out: mask to 16 bits first, then compare. -/
def configMasked (cfg : Config) : Config :=
  { cfg with
    A_ACIA_SR_RD := maskAddr cfg.A_ACIA_SR_RD
    A_ACIA_DR_RD := maskAddr cfg.A_ACIA_DR_RD
    A_ACIA_DR_WR := maskAddr cfg.A_ACIA_DR_WR
    A_ACIA_CR_WR := maskAddr cfg.A_ACIA_CR_WR
    A_TMR_RH_WR := maskAddr cfg.A_TMR_RH_WR
    A_TMR_RM_WR := maskAddr cfg.A_TMR_RM_WR
    A_TMR_RL_WR := maskAddr cfg.A_TMR_RL_WR
    A_TMR_CR_WR := maskAddr cfg.A_TMR_CR_WR
    A_TMR_SR_RD := maskAddr cfg.A_TMR_SR_RD
    A_TMR_SR_WR := maskAddr cfg.A_TMR_SR_WR }

/-- An operation with its address masked first, under the other reading of U2. -/
def opMasked : Op → Op
  | .rdb a => .rdb (maskAddr a)
  | .rdw a => .rdw (maskAddr a)
  | .wrb a v => .wrb (maskAddr a) v
  | .wrw a w => .wrw (maskAddr a) w
  | .peekw a => .peekw (maskAddr a)
  | .sync n => .sync n

/-- D14, U4: a state in which both readings of cycle-sync agree (92_eei_decisions.md D14). -/
abbrev State.gatesAgree (s : State) : Prop := s.tmr_enabled = true ∨ (0 ≤ s.prescaler ∧ 0 < s.counter)

end Sys2Proof.Machine
end

