-- ==== Sys2Proof/Certificates/Slice0/Obligations.lean ====
section
/-! DEFINITION. The statements about the block, in the order of OBLIGATIONS.json. -/

open Sys2Proof Sys2Proof.Machine

/-! Encoding. -/

/-- Words written out in 95_test_vectors.md (P1 to P4) spell the behaviours they stand for.  The packing is the
spec's own (D27) and `CFG_REF` the model's choice of configuration (log entry 1). -/
def Obligations.HandWrittenWordsDecode : Prop :=
  decodeTableWord 56 0x2000100400015 = some (.wrbAciaCr 0x10040 0x15) ∧
  decodeTableWord 56 0x0000100400000 = some (.rdbAciaSr 0x10040) ∧
  decodeTableWord 56 0x20001002B0002 = some (.wrbTmrRl 0x1002B 0x02) ∧
  decodeTableWord 56 0x10001FFFF0000 = some (.rdwMem 0x1FFFF) ∧
  decodeTableWord 56 0x300010034AA55 = some (.wrwMem 0x10034 0xAA55) ∧
  decodeTableWord 56 0x30001002B0001 = some (.wrwDev 0x1002B 0x0001) ∧
  decodeTableWord 56 0x4000000060000 = some (.peekwBoot .at6) ∧
  decodeTableWord 56 0x50000000C0000 = some (.sync 12)

/-- The packed word of every behaviour a well-formed configuration can select decodes to it, with every operand
at every value the packing admits.  R83 and R84 are the spec's own packing (D27). -/
def Obligations.DecodeInvertsEncode : Prop :=
  ∀ (cfg : Config) (i : Instr), cfg.WellFormed → i.wellFormed cfg = true →
    (∀ t : Packed, encode i = some t → decodeWord cfg t = .ok i) ∧
    (encode i = none ↔ ∃ n, i = .sync n ∧ 2 ^ 32 ≤ n)

/-- Each packed word spells at most one behaviour, and that behaviour's packed word is the word itself: no bit is
dropped and no word is a second spelling.  R83 and R84 are the spec's own packing (D27). -/
def Obligations.EncodeInvertsDecode : Prop :=
  ∀ (cfg : Config) (t : Packed) (i : Instr), decodeWord cfg t = .ok i → encode i = some t

/-- The decoder under `CFG_REF` selects, for every 52-bit word, the behaviour of the highest-priority row of
spec/opcode_table.json that matches it, and spells no operation where no row matches (30_encoding.md R99, D27;
`CFG_REF`: log entry 1). -/
def Obligations.DecoderAgreesWithOpcodeTable : Prop :=
  ∀ t : BitVec 52,
    (match decodeWord Config.CFG_REF ((0 : BitVec 4) ++ t) with
      | .ok i => some (behaviourNumber i)
      | .error _ => none) = (selectRow opcodeTable t).map (·.behaviour)

/-- Under a well-formed configuration every operation selects exactly one behaviour: the decoded one satisfies
its row's condition, and no other behaviour of that operation does (30_encoding.md R88, R91). -/
def Obligations.EveryOperationSelectsOneBehaviour : Prop :=
  ∀ (cfg : Config) (o : Op), cfg.WellFormed →
    (decode cfg o).wellFormed cfg = true ∧ (decode cfg o).op = o ∧
    ∀ i : Instr, i.wellFormed cfg = true → i.op = o → i = decode cfg o

/-- Exactly the words with a field outside what R83 allows spell no operation (30_encoding.md R83, R84: the
spec's own packing, D27; the four bits above `T[51]`: log entry 12). -/
def Obligations.WordsThatSpellNoOperation : Prop :=
  ∀ t : Packed, (∃ e, unpack t = .error e) ↔
    (t.extractLsb' 52 4 ≠ 0 ∨ 6 ≤ (t.extractLsb' 48 4).toNat ∨
     (t.extractLsb' 48 4 = 2 ∧ t.extractLsb' 8 8 ≠ 0) ∨
     ((t.extractLsb' 48 4 = 0 ∨ t.extractLsb' 48 4 = 1 ∨ t.extractLsb' 48 4 = 4 ∨ t.extractLsb' 48 4 = 5) ∧
       t.extractLsb' 0 16 ≠ 0))

/-- On careful operations under a careful configuration the other reading of U2, mask first and then compare,
selects the same behaviour (93_implementation_defined.md U2, 92_eei_decisions.md D2). -/
def Obligations.MaskFirstReadingAgreesOnCarefulOperations : Prop :=
  ∀ (cfg : Config) (o : Op), configCareful cfg → careful cfg o = true →
    behaviourNumber (decode (configMasked cfg) (opMasked o)) = behaviourNumber (decode cfg o)

/-- A careful operation does not depend on the image bytes under the write-side ports, where U5 lets the byte be
the old one or the one written: run on two images that agree everywhere else, it does the same, and the images it
leaves agree everywhere else (93_implementation_defined.md U5, 92_eei_decisions.md D5). -/
def Obligations.CarefulOperationsIgnoreTheBytesUnderWrittenPorts : Prop :=
  ∀ (o : Op) (m : Memory) (s : State), s.halted = false → s.img.wf → m.wf → careful s.cfg o = true →
    (∀ j, j ∉ s.cfg.wrAddrs.map idx → m.byteAt j = s.img.byteAt j) →
    ∃ t t' : State, exec (decode s.cfg o) s = .next t ∧ exec (decode s.cfg o) { s with img := m } = .next t' ∧
      t' = { t with img := t'.img } ∧ ∀ j, j ∉ s.cfg.wrAddrs.map idx → t'.img.byteAt j = t.img.byteAt j

/-! One step. -/

/-- A step performs the decoded operation: where the next request decodes to `i`, the step is `exec i` at the
state with that request taken off the trace and counted (log entries 2 and 5). -/
def Obligations.StepPerformsTheDecodedOperation : Prop :=
  ∀ (s : State) (r : Request) (rest : List Request) (i : Instr),
    s.halted = false → s.cfg.WellFormed → s.pending = r :: rest → r.decode s.cfg = .ok i →
    step s = exec i { s with pending := rest, opsIssued := s.opsIssued + 1 }

/-- Where a step performs no operation: halted it is a fault, under an ill-formed configuration or a word that
spells no operation a refusal, and with an empty trace it leaves the state as it is (log entry 2: the idle step is
the model's choice). -/
def Obligations.StepWithoutAnOperation : Prop :=
  ∀ s : State,
    (s.halted = true → step s = .fault .halted) ∧
    (s.halted = false → ¬ s.cfg.WellFormed → step s = .refused .illFormedConfig) ∧
    (s.halted = false → s.cfg.WellFormed → s.pending = [] → step s = .next s) ∧
    (∀ t rest e, s.halted = false → s.cfg.WellFormed → s.pending = .word t :: rest → unpack t = .error e →
      step s = .refused (.notAnOperation e))

/-- 00_scope.md R15: an operation on a state that is not halted has exactly one of two outcomes, ok with the
read's result or fatal; on a halted state it has none.  The outcome is held in `results` and `fatal` (log
entries 4 and 5). -/
def Obligations.EveryOperationIsOkOrFatal : Prop :=
  ∀ (i : Instr) (s : State),
    (s.halted = true → exec i s = .fault .halted) ∧
    (s.halted = false → ∃ t, exec i s = .next t ∧
      ((t.halted = false ∧ t.fatal = s.fatal ∧
          (isRead i = true → ∃ r, t.results = s.results ++ [r]) ∧ (isRead i = false → t.results = s.results)) ∨
       (∃ r : FatalRecord, t = { s with halted := true, fatal := some r })))

/-! The memory-bus multiplexer. -/

/-- 40_bus_memory_ops.md R110: `RDB a` with a ∉ `RD_ADDRS` is `RDB.MEM`, which returns the image byte at a mod
65536 and writes no field.  (A write-only port address under the setting `UNBOUND_DIR_FATAL` of U3:
UnboundDirectionReadHaltsUnderTheOtherSetting.) -/
def Obligations.RdbMemReturnsTheImageByte : Prop :=
  ∀ (a : Addr) (s : State), s.halted = false → (s.cfg.UNBOUND_DIR_FATAL = false ∨ a ∉ s.cfg.wrAddrs) →
    (a ∉ s.cfg.rdAddrs → decode s.cfg (.rdb a) = .rdbMem a) ∧
    exec (.rdbMem a) s = .next { s with results := s.results ++ [.byte (s.img.byteAt (a.toNat % 65536))] }

/-- 40_bus_memory_ops.md R111, R119: outside the device addresses (and, for a peek, the bootstrap ones) `RDW` and
`PEEKW` return the image word, high byte at a mod 65536, low byte at (a + 1) mod 65536, and write no field. -/
def Obligations.WordReadsReturnTheImageWord : Prop :=
  ∀ (a : Addr) (s : State), s.halted = false →
    (a ∉ s.cfg.deviceAddrs → decode s.cfg (.rdw a) = .rdwMem a) ∧
    (a ∉ [0, 2, 4, 6] → a ∉ s.cfg.deviceAddrs → decode s.cfg (.peekw a) = .peekwMem a) ∧
    exec (.rdwMem a) s = .next { s with results := s.results ++
      [.word (s.img.byteAt (a.toNat % 65536) ++ s.img.byteAt ((a.toNat + 1) % 65536))] } ∧
    exec (.peekwMem a) s = exec (.rdwMem a) s

/-- 40_bus_memory_ops.md R112: `WRB a, v` with a ∉ `WR_ADDRS` is `WRB.MEM`, which stores its byte at a mod 65536;
every other byte reads as before and no other field changes. -/
def Obligations.WrbMemStoresOneByte : Prop :=
  ∀ (a : Addr) (v : Byte) (s : State), s.halted = false → s.img.wf →
    (a ∉ s.cfg.wrAddrs → decode s.cfg (.wrb a v) = .wrbMem a v) ∧
    ∃ t, exec (.wrbMem a v) s = .next t ∧ t = { s with img := t.img } ∧
      t.img.byteAt (a.toNat % 65536) = v ∧
      ∀ j, j ≠ a.toNat % 65536 → t.img.byteAt j = s.img.byteAt j

/-- 40_bus_memory_ops.md R114: `WRW a, w` with a ∉ `DEVICE_ADDRS` is `WRW.MEM`, which stores w[15:8] at a mod
65536 and w[7:0] at (a + 1) mod 65536; every other byte reads as before and no other field changes. -/
def Obligations.WrwMemStoresTheWordBigEndian : Prop :=
  ∀ (a : Addr) (w : Word) (s : State), s.halted = false → s.img.wf →
    (a ∉ s.cfg.deviceAddrs → decode s.cfg (.wrw a w) = .wrwMem a w) ∧
    ∃ t, exec (.wrwMem a w) s = .next t ∧ t = { s with img := t.img } ∧
      t.img.byteAt (a.toNat % 65536) = w.extractLsb' 8 8 ∧
      t.img.byteAt ((a.toNat + 1) % 65536) = w.extractLsb' 0 8 ∧
      ∀ j, j ≠ a.toNat % 65536 → j ≠ (a.toNat + 1) % 65536 → t.img.byteAt j = s.img.byteAt j

/-- 40_bus_memory_ops.md R115, R116, R117 and 41_serial_port.md R133: a word operation at a device address, a
peek at one that is no bootstrap address, and a byte read of the serial data port are the four fatal behaviours:
they set the halt latch and change nothing else; no value is returned.  What stands in `fatal` is the outcome
fatal(code), with the information the spec has it carry by its decision D20 (log entry 4). -/
def Obligations.DeviceMisuseHaltsTheBlock : Prop :=
  ∀ (a : Addr) (w : Word) (s : State), s.halted = false →
    (a ∈ s.cfg.deviceAddrs → decode s.cfg (.rdw a) = .rdwDev a ∧ decode s.cfg (.wrw a w) = .wrwDev a w ∧
      (a ∉ [0, 2, 4, 6] → decode s.cfg (.peekw a) = .peekwDev a)) ∧
    (s.cfg.WellFormed → a = s.cfg.A_ACIA_DR_RD → decode s.cfg (.rdb a) = .rdbAciaDr a) ∧
    exec (.rdwDev a) s = .next { s with halted := true, fatal := some ⟨.F_WORD_READ_DEVICE, a, none⟩ } ∧
    exec (.wrwDev a w) s = .next { s with halted := true, fatal := some ⟨.F_WORD_WRITE_DEVICE, a, some w⟩ } ∧
    exec (.peekwDev a) s = .next { s with halted := true, fatal := some ⟨.F_PEEK_DEVICE, a, none⟩ } ∧
    exec (.rdbAciaDr a) s = .next { s with halted := true, fatal := some ⟨.F_ACIA_DATA_READ, a, none⟩ }

/-- 40_bus_memory_ops.md R118: a peek at 0, 2, 4 or 6 returns the configured word whatever the image holds, and
writes no field; the operation is decoded to `PEEKW.BOOT` under every configuration. -/
def Obligations.PeekAtTheResetVectorReturnsTheConfiguredWords : Prop :=
  ∀ s : State, s.halted = false →
    exec (decode s.cfg (.peekw 0)) s = .next { s with results := s.results ++ [.word s.cfg.BOOT_W0] } ∧
    exec (decode s.cfg (.peekw 2)) s = .next { s with results := s.results ++ [.word s.cfg.BOOT_W2] } ∧
    exec (decode s.cfg (.peekw 4)) s = .next { s with results := s.results ++ [.word s.cfg.BOOT_W4] } ∧
    exec (decode s.cfg (.peekw 6)) s = .next { s with results := s.results ++ [.word s.cfg.START_PC] } ∧
    ∀ slot, exec (.peekwBoot slot) s = exec (decode s.cfg (.peekw slot.addr)) s

/-- The other setting of 93_implementation_defined.md U3: a byte read at an address of `WR_ADDRS` that is not one
of `RD_ADDRS` halts the block; the fifth code is the model's own (log entry 6). -/
def Obligations.UnboundDirectionReadHaltsUnderTheOtherSetting : Prop :=
  ∀ (a : Addr) (s : State), s.halted = false → s.cfg.UNBOUND_DIR_FATAL = true → a ∈ s.cfg.wrAddrs →
    a ∉ s.cfg.rdAddrs →
    exec (decode s.cfg (.rdb a)) s =
      .next { s with halted := true, fatal := some ⟨.F_UNBOUND_DIR_READ, a, none⟩ }

/-- 60_exceptions.md R176 (the spec's decision D20): which operations are fatal, with the code's number and what the
outcome carries; no other operation is.  (Under the other setting of U3 there is a fifth cause: log entry 6.) -/
def Obligations.OnlyTheFourCausesAreFatal : Prop :=
  ∀ (o : Op) (s : State), s.halted = false → s.cfg.WellFormed → s.cfg.UNBOUND_DIR_FATAL = false →
    ∃ t, exec (decode s.cfg o) s = .next t ∧
      t.fatalOutcome = match o with
        | .rdb a => if a = s.cfg.A_ACIA_DR_RD then some (1, a, none) else none
        | .rdw a => if a ∈ s.cfg.deviceAddrs then some (2, a, none) else none
        | .wrb _ _ => none
        | .wrw a w => if a ∈ s.cfg.deviceAddrs then some (3, a, some w) else none
        | .peekw a => if a ∈ s.cfg.deviceAddrs ∧ a ∉ [0, 2, 4, 6] then some (4, a, none) else none
        | .sync _ => none

/-! The serial port. -/

/-- 41_serial_port.md R132: the byte read of `A_ACIA_SR_RD` is the status read, which returns the constant byte of
the configuration and writes no field. -/
def Obligations.SerialStatusReadReturnsTheReadyByte : Prop :=
  ∀ (a : Addr) (s : State), s.halted = false →
    (a = s.cfg.A_ACIA_SR_RD → decode s.cfg (.rdb a) = .rdbAciaSr a) ∧
    exec (.rdbAciaSr a) s = .next { s with results := s.results ++ [.byte s.cfg.ACIA_TX_READY] }

/-- 41_serial_port.md R136: the byte write to `A_ACIA_DR_WR` is the data write, which appends its byte to the
transmitted bytes, whatever `acia_enabled` is, and changes nothing else (that the image is unchanged is the
spec's reading D5, log entry 9). -/
def Obligations.SerialDataWriteTransmitsTheByte : Prop :=
  ∀ (a : Addr) (v : Byte) (s : State), s.halted = false →
    (a = s.cfg.A_ACIA_DR_WR → decode s.cfg (.wrb a v) = .wrbAciaDr a v) ∧
    exec (.wrbAciaDr a v) s = .next { s with tx := s.tx ++ [v] }

/-- 41_serial_port.md R138: the byte write to `A_ACIA_CR_WR` is the control write, which sets `acia_enabled` to
whether the whole byte is the magic value, and changes nothing else. -/
def Obligations.SerialControlWriteComparesTheWholeByte : Prop :=
  ∀ (a : Addr) (v : Byte) (s : State), s.halted = false →
    (s.cfg.WellFormed → a = s.cfg.A_ACIA_CR_WR → decode s.cfg (.wrb a v) = .wrbAciaCr a v) ∧
    exec (.wrbAciaCr a v) s = .next { s with acia_enabled := decide (v = s.cfg.ACIA_ENABLE_MAGIC) }

/-! The interval timer. -/

/-- 42_interval_timer.md R147 to R149: the byte write to each reload port is its reload write, which replaces
its own byte of the reload value, keeps the other two, and changes nothing else, the counter included (that the
image is unchanged is the spec's reading D5, log entry 9). -/
def Obligations.ReloadWritesReplaceOneByte : Prop :=
  ∀ (a : Addr) (v : Byte) (s : State), s.halted = false →
    (s.cfg.WellFormed → (a = s.cfg.A_TMR_RH_WR → decode s.cfg (.wrb a v) = .wrbTmrRh a v) ∧
      (a = s.cfg.A_TMR_RM_WR → decode s.cfg (.wrb a v) = .wrbTmrRm a v) ∧
      (a = s.cfg.A_TMR_RL_WR → decode s.cfg (.wrb a v) = .wrbTmrRl a v)) ∧
    (∃ t, exec (.wrbTmrRh a v) s = .next t ∧ t = { s with reload := t.reload } ∧
      t.reload.extractLsb' 16 8 = v ∧ t.reload.extractLsb' 0 16 = s.reload.extractLsb' 0 16) ∧
    (∃ t, exec (.wrbTmrRm a v) s = .next t ∧ t = { s with reload := t.reload } ∧
      t.reload.extractLsb' 8 8 = v ∧ t.reload.extractLsb' 16 8 = s.reload.extractLsb' 16 8 ∧
      t.reload.extractLsb' 0 8 = s.reload.extractLsb' 0 8) ∧
    (∃ t, exec (.wrbTmrRl a v) s = .next t ∧ t = { s with reload := t.reload } ∧
      t.reload.extractLsb' 0 8 = v ∧ t.reload.extractLsb' 8 16 = s.reload.extractLsb' 8 16)

/-- 42_interval_timer.md R151: the three reload writes may come in any order; together they assemble the value
high ∥ mid ∥ low and change nothing else (the image: D5, log entry 9). -/
def Obligations.ReloadWritesAssembleInAnyOrder : Prop :=
  ∀ (a b c : Addr) (hi mid lo : Byte) (is : List Instr) (s : State), s.halted = false →
    is.Perm [.wrbTmrRh a hi, .wrbTmrRm b mid, .wrbTmrRl c lo] →
    execAll is s = .next { s with reload := hi ++ mid ++ lo }

/-- 42_interval_timer.md R150: the byte write to `A_TMR_CR_WR` is the control write, which sets the enable to
bit 5 of the byte and changes nothing else: no preload, no clear, no change of level (D18 is the spec's own
decision, log entry 10). -/
def Obligations.TimerControlWriteDecidesOnBitFive : Prop :=
  ∀ (a : Addr) (v : Byte) (s : State), s.halted = false →
    (s.cfg.WellFormed → a = s.cfg.A_TMR_CR_WR → decode s.cfg (.wrb a v) = .wrbTmrCr a v) ∧
    exec (.wrbTmrCr a v) s = .next { s with tmr_enabled := v.getLsbD 5 }

/-- 42_interval_timer.md R152: the byte read of `A_TMR_SR_RD` is the status read, which returns the image byte at
its address and writes no field. -/
def Obligations.TimerStatusReadFallsThroughToTheImage : Prop :=
  ∀ (a : Addr) (s : State), s.halted = false →
    (s.cfg.WellFormed → a = s.cfg.A_TMR_SR_RD → decode s.cfg (.rdb a) = .rdbTmrSr a) ∧
    exec (.rdbTmrSr a) s = .next { s with results := s.results ++ [.byte (s.img.byteAt (a.toNat % 65536))] }

/-- 42_interval_timer.md R153: the byte write to `A_TMR_SR_WR` is the status write; a value of 0x01 drives level
0 and records the call; any other value does nothing at all (whole-byte equality is the spec's decision D17, log
entry 10). -/
def Obligations.TimerStatusWriteOfOneDrivesLevelZero : Prop :=
  ∀ (a : Addr) (v : Byte) (s : State), s.halted = false →
    (s.cfg.WellFormed → a = s.cfg.A_TMR_SR_WR → decode s.cfg (.wrb a v) = .wrbTmrSr a v) ∧
    exec (.wrbTmrSr a v) s =
      .next (if v = 1 then { s with ipl := 0, ipl_events := s.ipl_events ++ [0] } else s)

/-- 42_interval_timer.md R155, the pseudocode of `SYNC`: the three ifs in order, each on the values the one before
left.  The scope of the enable test is the spec's decision D14, the setting `literal` (log entry 7). -/
def Obligations.SyncFollowsThePseudocode : Prop :=
  ∀ (n : Nat) (s : State), s.halted = false → s.cfg.SYNC_GATE = .literal →
    ∀ p c : Int, p = (if s.tmr_enabled = true ∧ 0 ≤ s.prescaler then s.prescaler - n else s.prescaler) →
      c = (if p < 0 then s.counter - 1 else s.counter) →
      exec (.sync n) s = .next
        (if c ≤ 0 then
          if s.tmr_enabled = true then
            { s with prescaler := if p < 0 then p + 32 else p, counter := s.reload.toNat,
                     ipl := 5, ipl_events := s.ipl_events ++ [5] }
          else { s with prescaler := if p < 0 then p + 32 else p, counter := s.reload.toNat }
        else { s with prescaler := if p < 0 then p + 32 else p, counter := c })

/-- The other setting of 93_implementation_defined.md U4, 92_eei_decisions.md D14: under `whole` a `SYNC` of a
disabled timer changes nothing, and a `SYNC` of an enabled one does what it does under `literal` (log entry 7). -/
def Obligations.SyncUnderTheWholeGate : Prop :=
  ∀ (n : Nat) (s : State), s.halted = false → s.cfg.SYNC_GATE = .whole →
    (s.tmr_enabled = false → exec (.sync n) s = .next s) ∧
    (s.tmr_enabled = true → ∃ t : State,
      exec (.sync n) { s with cfg := { s.cfg with SYNC_GATE := .literal } } = .next t ∧
      exec (.sync n) s = .next { t with cfg := s.cfg })

/-- 92_eei_decisions.md D14: the two readings of cycle-sync agree on every state with the timer enabled, and on
every state with it disabled, prescaler ≥ 0 and counter > 0. -/
def Obligations.GateReadingsAgree : Prop :=
  ∀ (n : Nat) (s : State), s.halted = false → s.gatesAgree →
    ∃ t : State, ∀ g : SyncGate,
      exec (.sync n) { s with cfg := { s.cfg with SYNC_GATE := g } } =
        .next { t with cfg := { s.cfg with SYNC_GATE := g } }

/-- 42_interval_timer.md R161, the freeze: disabled, prescaler ≥ 0 and counter > 0, a `SYNC` changes nothing,
whatever `n` is and under either setting of `SYNC_GATE` (an inference of the spec from R155, which rests on D14). -/
def Obligations.DisabledTimerIsFrozen : Prop :=
  ∀ (n : Nat) (s : State), s.halted = false → s.tmr_enabled = false → 0 ≤ s.prescaler → 0 < s.counter →
    exec (.sync n) s = .next s

/-- 42_interval_timer.md R159, R160: while the prescaler is negative a `SYNC` is one tick, 32 is added back and
its own cycles are discarded, so any two counts do the same (an inference of the spec from R155; D14, log entry 7). -/
def Obligations.NegativePrescalerDiscardsTheCycles : Prop :=
  ∀ (n m : Nat) (s : State), s.halted = false → s.prescaler < 0 →
    (s.cfg.SYNC_GATE = .literal ∨ s.tmr_enabled = true) →
    exec (.sync n) s = exec (.sync m) s ∧
    ∃ t, exec (.sync n) s = .next t ∧ t.prescaler = s.prescaler + 32 ∧
      (1 < s.counter → t = { s with prescaler := s.prescaler + 32, counter := s.counter - 1 })

/-- 42_interval_timer.md R162: with n ≤ 32 a prescaler in [0, 31] stays there; and whatever n is, no `SYNC` takes
a prescaler ≤ 31 above 31 (an inference of the spec from R155). -/
def Obligations.PrescalerStaysInRange : Prop :=
  ∀ (n : Nat) (s t : State), exec (.sync n) s = .next t → s.prescaler ≤ 31 →
    t.prescaler ≤ 31 ∧ (0 ≤ s.prescaler → n ≤ 32 → 0 ≤ t.prescaler)

/-- 42_interval_timer.md R167: an implementation that holds the two counts in 32-bit two's complement computes the
same `SYNC` as R155 wherever no intermediate value leaves the 32-bit range, under either setting of `SYNC_GATE` (an
inference of the spec). -/
def Obligations.SyncOnThirtyTwoBitsIsExactInRange : Prop :=
  ∀ (n : Nat) (s : State), s.Fits32 n → exec32 (.sync n) s = exec (.sync n) s

/-- 42_interval_timer.md R167, with R162 and R164: from power-on, whatever the operations are, as long as every `SYNC`
carries at most 2^31 - 1 cycles that implementation does the same, the prescaler stays in [32 - (2^31 - 1), 31] and
the counter in [0, 2^24 - 1], and the next such `SYNC` is in range too, with the counter at -1 or more inside it (an
inference of the spec; it rests on the power-on values of D13, log entry 3). -/
def Obligations.RunsFromPowerOnAreExactOnThirtyTwoBits : Prop :=
  ∀ (cfg : Config) (is : List Instr), (∀ n, Instr.sync n ∈ is → n ≤ 2 ^ 31 - 1) →
    execAll32 is (State.powerOn cfg) = execAll is (State.powerOn cfg) ∧
    ∀ t, execAll is (State.powerOn cfg) = .next t →
      (32 - (2 ^ 31 - 1) ≤ t.prescaler ∧ t.prescaler ≤ 31) ∧ (0 ≤ t.counter ∧ t.counter ≤ 2 ^ 24 - 1) ∧
      ∀ n, n ≤ 2 ^ 31 - 1 → t.Fits32 n ∧ -1 ≤ tickCounter (countCycles t.tmr_enabled t.prescaler n) t.counter

/-- 42_interval_timer.md R163, the tick count: timer enabled, every n ≤ 32, prescaler p0 in [0, 31].  After `SYNC`s
carrying C cycles in all, T = ticks p0 C ticks have happened: the prescaler holds p0 - C + 32·T, and while the
counter is above T it has lost T, with no interrupt event (an inference of the spec from R155). -/
def Obligations.TickCountFollowsTheCycles : Prop :=
  ∀ (ns : List Nat) (p0 : Nat) (s : State), s.halted = false → s.tmr_enabled = true → (∀ n ∈ ns, n ≤ 32) →
    s.prescaler = p0 → p0 ≤ 31 →
    ∃ t, execAll (ns.map .sync) s = .next t ∧
      t.prescaler = (p0 : Int) - ns.sum + 32 * ticks p0 ns.sum ∧
      ((ticks p0 ns.sum : Int) < s.counter →
        t = { s with prescaler := t.prescaler, counter := s.counter - ticks p0 ns.sum })

/-- 42_interval_timer.md R166, the interrupt period: timer enabled, every n ≤ 32, prescaler in [0, 31], counter
c ≥ 1.  The next reload event is in the `SYNC` of the c-th tick: it leaves the counter at the reload value, the
level at 5, and exactly one more IPL(5) event (an inference of the spec from R155). -/
def Obligations.ReloadEventComesAtTheLastTick : Prop :=
  ∀ (ns : List Nat) (n p0 c : Nat) (s : State), s.halted = false → s.tmr_enabled = true →
    (∀ k ∈ ns, k ≤ 32) → n ≤ 32 → s.prescaler = p0 → p0 ≤ 31 → s.counter = c →
    ticks p0 ns.sum + 1 = c → ticks p0 (ns.sum + n) = c →
    execAll ((ns ++ [n]).map .sync) s =
      .next { s with prescaler := (p0 : Int) - (ns.sum + n : Nat) + 32 * c, counter := s.reload.toNat,
                     ipl := 5, ipl_events := s.ipl_events ++ [5] }

/-- 60_exceptions.md R186: an acknowledge and a reload event of the same instruction leave the new request
standing: level 5, the events ending IPL(0), IPL(5) (an inference of the spec).  `p` is the prescaler that step
(a) of R155 leaves; the premise on the counter is that step (c) is taken, with or without a tick. -/
def Obligations.AcknowledgeDoesNotLoseANewRequest : Prop :=
  ∀ (a : Addr) (n : Nat) (s : State), s.halted = false → s.tmr_enabled = true →
    ∀ p : Int, p = (if 0 ≤ s.prescaler then s.prescaler - n else s.prescaler) →
    (if p < 0 then s.counter - 1 else s.counter) ≤ 0 →
    execAll [.wrbTmrSr a 1, .sync n] s =
      .next { s with prescaler := if p < 0 then p + 32 else p, counter := s.reload.toNat, ipl := 5,
                     ipl_events := s.ipl_events ++ [0, 5] }

/-! The whole machine. -/

/-- 60_exceptions.md R185: a byte write of 0x01 to the timer status port drives level 0, and nothing else lowers
the level.  (The premise is the invariant of StepKeepsTheBlockInvariant: it rules out levels that are never
driven.) -/
def Obligations.OnlyTheStatusWriteLowersTheLevel : Prop :=
  (∀ (a : Addr) (s : State), s.halted = false →
    exec (.wrbTmrSr a 1) s = .next { s with ipl := 0, ipl_events := s.ipl_events ++ [0] }) ∧
  ∀ (i : Instr) (s t : State), s.Inv → exec i s = .next t → t.ipl.toNat < s.ipl.toNat → ∃ a, i = .wrbTmrSr a 1

/-- 60_exceptions.md R182, R184: an interrupt event is recorded, or the level changed, only by a reload event of an
enabled timer, which drives 5, or by a status write, which drives 0; so only such a reload event raises the level,
and a reload event with the timer disabled drives nothing.  (R184 is an inference of the spec.) -/
def Obligations.OnlyAnEnabledReloadEventRaisesTheLevel : Prop :=
  ∀ (i : Instr) (s t : State), exec i s = .next t →
    (t.ipl_events ≠ s.ipl_events ∨ t.ipl ≠ s.ipl →
      (∃ n, i = .sync n ∧ s.tmr_enabled = true ∧
        tickCounter (countCycles s.tmr_enabled s.prescaler n) s.counter ≤ 0 ∧ t.counter = s.reload.toNat ∧
        t.ipl = 5 ∧ t.ipl_events = s.ipl_events ++ [5]) ∨
      (∃ a, i = .wrbTmrSr a 1 ∧ t.ipl = 0 ∧ t.ipl_events = s.ipl_events ++ [0])) ∧
    (s.ipl.toNat < t.ipl.toNat → ∃ n, i = .sync n ∧ s.tmr_enabled = true ∧
      tickCounter (countCycles s.tmr_enabled s.prescaler n) s.counter ≤ 0)

/-- 10_state.md R20 to R27, R41, R42: which behaviours can change each field; the configuration, the trace and its
count are changed by none.  (That device writes leave the image alone is the spec's reading D5, log entry 9.) -/
def Obligations.EachFieldHasItsOwnWriters : Prop :=
  ∀ (i : Instr) (s t : State), exec i s = .next t →
    (t.img ≠ s.img → (∃ a v, i = .wrbMem a v) ∨ ∃ a w, i = .wrwMem a w) ∧
    (t.acia_enabled ≠ s.acia_enabled → ∃ a v, i = .wrbAciaCr a v) ∧
    (t.tx ≠ s.tx → ∃ a v, i = .wrbAciaDr a v) ∧
    (t.reload ≠ s.reload → ∃ a v, i = .wrbTmrRh a v ∨ i = .wrbTmrRm a v ∨ i = .wrbTmrRl a v) ∧
    (t.counter ≠ s.counter ∨ t.prescaler ≠ s.prescaler → ∃ n, i = .sync n) ∧
    (t.tmr_enabled ≠ s.tmr_enabled → ∃ a v, i = .wrbTmrCr a v) ∧
    (t.ipl ≠ s.ipl ∨ t.ipl_events ≠ s.ipl_events → (∃ n, i = .sync n) ∨ ∃ a, i = .wrbTmrSr a 1) ∧
    (t.halted ≠ s.halted ∨ t.fatal ≠ s.fatal →
      (∃ a, i = .rdbAciaDr a ∨ i = .rdwDev a ∨ i = .peekwDev a) ∨ (∃ a w, i = .wrwDev a w) ∨
      ∃ a, i = .rdbMem a ∧ s.cfg.UNBOUND_DIR_FATAL = true ∧ a ∈ s.cfg.wrAddrs) ∧
    (t.results ≠ s.results → isRead i = true ∧ t.halted = false) ∧
    t.cfg = s.cfg ∧ t.pending = s.pending ∧ t.opsIssued = s.opsIssued

/-- 20_memory.md R61: no read changes a field of `S` other than `halted`, and a read that returns a value is
idempotent: repeated at once it returns the same value. -/
def Obligations.ReadsChangeOnlyTheHaltLatch : Prop :=
  ∀ (i : Instr) (s t : State), isRead i = true → exec i s = .next t →
    (t = { s with halted := t.halted, results := t.results, fatal := t.fatal }) ∧
    (t.halted = false → ∃ r, t.results = s.results ++ [r] ∧
      exec i t = .next { t with results := t.results ++ [r] })

/-- 40_bus_memory_ops.md R120: no behaviour of `PEEKW` changes any field of `S` other than `halted`: it does not
advance the timer and transmits nothing; the one way it meets a device is the fatal path. -/
def Obligations.PeekHasNoSideEffect : Prop :=
  ∀ (a : Addr) (s t : State), exec (decode s.cfg (.peekw a)) s = .next t →
    (t = { s with halted := t.halted, results := t.results, fatal := t.fatal }) ∧
    (t.halted = true → a ∈ s.cfg.deviceAddrs ∧ t.fatal = some ⟨.F_PEEK_DEVICE, a, none⟩ ∧ t.results = s.results)

/-- 41_serial_port.md R139: `acia_enabled` affects no behaviour; whatever it is, every operation but the control
write does the same (an inference of the spec). -/
def Obligations.SerialEnableIsUnobservable : Prop :=
  ∀ (i : Instr) (s t : State) (b : Bool), (∀ a v, i ≠ .wrbAciaCr a v) → exec i s = .next t →
    exec i { s with acia_enabled := b } = .next { t with acia_enabled := b }

/-- 60_exceptions.md R177: whether an operation is fatal, and what it records, is decided by the configuration
and the operation alone, not by the state (an inference of the spec). -/
def Obligations.FatalIsDecidedByTheDecoder : Prop :=
  ∀ (o : Op) (s s' : State), s.cfg = s'.cfg → s.halted = false → s'.halted = false →
    ∃ t t', exec (decode s.cfg o) s = .next t ∧ exec (decode s'.cfg o) s' = .next t' ∧
      t.halted = t'.halted ∧ (t.halted = true → t.fatal = t'.fatal)

/-- 20_memory.md R66: at an address outside the decoding table, a write followed by a read returns the written
byte or word, also where a + 1 is a device address and where the word wraps. -/
def Obligations.WriteThenReadReturnsTheValue : Prop :=
  ∀ (a : Addr) (v : Byte) (w : Word) (s : State), s.halted = false → s.img.wf → a ∉ s.cfg.deviceAddrs →
    (∃ t u, exec (decode s.cfg (.wrb a v)) s = .next t ∧ exec (decode s.cfg (.rdb a)) t = .next u ∧
      u.results = s.results ++ [.byte v]) ∧
    (∃ t u, exec (decode s.cfg (.wrw a w)) s = .next t ∧ exec (decode s.cfg (.rdw a)) t = .next u ∧
      u.results = s.results ++ [.word w])

/-- 20_memory.md R56: a word written is read back by two byte reads, high byte first, and two bytes written are
read back as one word. -/
def Obligations.MixedWidthAccessesAreBigEndian : Prop :=
  ∀ (a : Addr) (w : Word) (x y : Byte) (s : State), s.halted = false → s.img.wf →
    a ∉ s.cfg.deviceAddrs → a + 1 ∉ s.cfg.deviceAddrs →
    (∃ t, execAll [decode s.cfg (.wrw a w), decode s.cfg (.rdb a), decode s.cfg (.rdb (a + 1))] s = .next t ∧
      t.results = s.results ++ [.byte (w.extractLsb' 8 8), .byte (w.extractLsb' 0 8)]) ∧
    (∃ t, execAll [decode s.cfg (.wrb a x), decode s.cfg (.wrb (a + 1) y), decode s.cfg (.rdw a)] s = .next t ∧
      t.results = s.results ++ [.word (x ++ y)])

/-- 20_memory.md R51: presented addresses that agree modulo 65536 reach the same image bytes, and no plain access
is out of range: it completes and does not halt the block.  (A byte read at a write-only port under the setting
`UNBOUND_DIR_FATAL` of U3 is no plain access.) -/
def Obligations.AddressesWrapAndNoneIsOutOfRange : Prop :=
  ∀ (a b : Addr) (v : Byte) (w : Word) (s : State), s.halted = false → a.toNat % 65536 = b.toNat % 65536 →
    (∃ t, t.halted = false ∧ exec (.rdwMem a) s = .next t ∧ exec (.rdwMem b) s = .next t) ∧
    (∃ t, t.halted = false ∧ exec (.peekwMem a) s = .next t ∧ exec (.peekwMem b) s = .next t) ∧
    (∃ t, t.halted = false ∧ exec (.wrbMem a v) s = .next t ∧ exec (.wrbMem b v) s = .next t) ∧
    (∃ t, t.halted = false ∧ exec (.wrwMem a w) s = .next t ∧ exec (.wrwMem b w) s = .next t) ∧
    ((s.cfg.UNBOUND_DIR_FATAL = false ∨ (a ∉ s.cfg.wrAddrs ∧ b ∉ s.cfg.wrAddrs)) →
      ∃ t, t.halted = false ∧ exec (.rdbMem a) s = .next t ∧ exec (.rdbMem b) s = .next t)

/-- 60_exceptions.md R178: the halt is precise: every operation before the fatal one has taken its full effect,
the fatal one changes the halt latch alone, and none after it happens (the spec's decision D20). -/
def Obligations.TheHaltIsPrecise : Prop :=
  ∀ (before after : List Op) (o : Op) (s t u : State), presentAll before s = .next t → t.halted = false →
    present o t = .next u → u.halted = true →
    presentAll (before ++ o :: after) s = .next u ∧
    ∃ r, u = { t with halted := true, fatal := some r, opsIssued := t.opsIssued + 1 }

/-! Power-on and the invariant. -/

/-- The power-on state (10_state.md R46).  `counter` = 0 is the source's; every other value is the spec's choice
D13, D20 (log entry 3) or the model's own field (log entries 1, 2, 4, 5). -/
def Obligations.PowerOnState : Prop :=
  ∀ cfg : Config, (State.powerOn cfg).counter = 0 ∧ (State.powerOn cfg).prescaler = 0 ∧
    (State.powerOn cfg).reload = 0 ∧ (State.powerOn cfg).tmr_enabled = false ∧
    (State.powerOn cfg).acia_enabled = false ∧ (State.powerOn cfg).tx = [] ∧ (State.powerOn cfg).ipl = 0 ∧
    (State.powerOn cfg).ipl_events = [] ∧ (State.powerOn cfg).halted = false ∧
    (∀ j, (State.powerOn cfg).img.byteAt j = 0) ∧ (State.powerOn cfg).cfg = cfg ∧
    State.reset = State.powerOn Config.CFG_REF

/-- The invariant of Safety.lean holds at power-on, under every configuration.  It rests on the power-on values
the spec chose (10_state.md R46, D13, D20: log entry 3) and on the model's own empty `fatal` (log entry 4). -/
def Obligations.PowerOnMeetsTheBlockInvariant : Prop :=
  ∀ cfg : Config, (State.powerOn cfg).Inv

/-- Every step keeps the invariant of Safety.lean: the image stays canonical, 0 ≤ counter < 2^24, prescaler ≤ 31,
the level is the one last driven and only 0 and 5 are driven, and the block is halted exactly when a fatal misuse
at a device address stands recorded (42_interval_timer.md R162, R164; 60_exceptions.md R175, R183). -/
def Obligations.StepKeepsTheBlockInvariant : Prop :=
  ∀ s t : State, s.Inv → step s = .next t → t.Inv

/-! The host around the block. -/

/-- 70_reset_and_hazards.md R211: a record whose bytes fit is written in order, counted, and changes no other
byte and no other field; one that exceeds the image is aborted with what was already written left in place.  (The
loader is host software, outside the block: 00_scope.md R5.) -/
def Obligations.LoaderWritesOneRecord : Prop :=
  ∀ (A : Nat) (bs : List Byte) (s : State), s.img.wf →
    (A + bs.length ≤ 65536 →
      ∃ t, loadBytes A bs s = ⟨t, bs.length, true⟩ ∧ t = { s with img := t.img } ∧
        (∀ k (h : k < bs.length), t.img.byteAt (A + k) = bs[k]) ∧
        ∀ j, j < A ∨ A + bs.length ≤ j → t.img.byteAt j = s.img.byteAt j) ∧
    (65536 < A + bs.length → bs ≠ [] →
      loadBytes A bs s = { loadBytes A (bs.take (65536 - A)) s with ok := false })

/-- 70_reset_and_hazards.md R213, R214 (a): a run that ends at its cap has performed exactly that many steps.
Each step `j`, from the state the one before left, presented a peek at the program counter, whose word was not
illegal, and then the operations the CPU core brought, the last of them the step's `SYNC`; none was fatal, and all
were issued.  So where every step brings `k` operations, cap·(k + 1) were issued.  (The trace loop is host software,
outside the block: 00_scope.md R5.) -/
def Obligations.RunToTheCapPerformsEveryStep : Prop :=
  ∀ (illegal : List Word) (cpu : State → CpuStep) (cap : Nat) (s t : State),
    traceLoop illegal cpu cap s = .capReached t →
    (∃ σ : Nat → State, σ 0 = s ∧ σ cap = t ∧ ∀ j < cap,
      (∃ u, present (.peekw (cpu (σ j)).pc) (σ j) = .next u ∧ isIllegal illegal u.results.getLast? = false) ∧
      presentAll (.peekw (cpu (σ j)).pc :: (cpu (σ j)).ops) (σ j) = .next (σ (j + 1)) ∧
      (cpu (σ j)).ops.getLast? = some (.sync (cpu (σ j)).cycles) ∧
      (σ (j + 1)).halted = false ∧
      (σ (j + 1)).opsIssued = (σ j).opsIssued + ((cpu (σ j)).ops.length + 1)) ∧
    ∀ k, (∀ s, (cpu s).ops.length = k) → t.opsIssued = s.opsIssued + cap * (k + 1)

/-- 70_reset_and_hazards.md R217, R212, R211: a run begins at power-on under the chosen `Config`, with the load;
where the load failed the trace loop does not run, no operation is issued, and what was written stays; where it
succeeded the CPU reset takes the three bootstrap words and `START_PC`, whatever was loaded at indexes 0 to 7, and
the trace loop goes on from there.  (It rests on power-on's `halted` = false: log entry 3.  The host is outside the
block: 00_scope.md R5.) -/
def Obligations.AHostRunLoadsThenResetsThenSteps : Prop :=
  ∀ (cfg : Config) (file : Option (List Char)) (illegal : List Word) (cpu : State → CpuStep) (cap : Nat)
    (r : LoadResult), cfg.WellFormed → loadFile file (State.powerOn cfg) = some r →
    r.state = { State.powerOn cfg with img := r.state.img } ∧
    (r.ok = false → hostRun cfg file illegal cpu cap = some (.loadFailed r.state)) ∧
    (r.ok = true → hostRun cfg file illegal cpu cap = some (traceLoop illegal cpu cap
      { r.state with opsIssued := 4,
                     results := [.word cfg.BOOT_W0, .word cfg.BOOT_W2, .word cfg.BOOT_W4, .word cfg.START_PC] }))
end

