-- ==== Sys2Proof/Laws/Decode.lean ====
section
/-! SUPPORT. The lemmas of the packing and of the decoder: the fields of a packed word, and what each read-side, write-side and peek decision gives. -/

namespace Sys2Proof

/-- A packed word is its four fields. -/
theorem packed_eq_fields (t : Packed) (h : t.extractLsb' 52 4 = 0) :
    t = packFields (Packed.opCode t) (Packed.addr t) (Packed.data t) := by
  apply BitVec.eq_of_getLsbD_eq
  intro i hi
  have h' : ∀ j, (t.extractLsb' 52 4).getLsbD j = false := by simp [h]
  simp only [BitVec.getLsbD_extractLsb'] at h'
  unfold packFields Packed.opCode Packed.addr Packed.data
  simp only [BitVec.getLsbD_append, BitVec.getLsbD_extractLsb']
  by_cases h1 : i < 16
  · simp [h1]
  by_cases h2 : i < 48
  · simp [h1, show i - 16 < 32 by omega, show 16 + (i - 16) = i by omega]
  by_cases h3 : i < 52
  · simp [h1, show ¬ i - 16 < 32 by omega, show i - 16 - 32 < 4 by omega, show 48 + (i - 16 - 32) = i by omega]
  · have hz := h' (i - 52)
    rw [show 52 + (i - 52) = i by omega] at hz
    simp only [show i - 52 < 4 by omega, decide_true, Bool.true_and] at hz
    simp [h1, show ¬ i - 16 < 32 by omega, show ¬ i - 16 - 32 < 4 by omega, hz]

@[simp] theorem packFields_pad (op : BitVec 4) (a : Addr) (d : Word) : (packFields op a d).extractLsb' 52 4 = 0 := by
  ext i hi
  unfold packFields
  simp only [BitVec.getElem_extractLsb', BitVec.getLsbD_append]
  simp [show ¬ 52 + i < 16 by omega, show ¬ 52 + i - 16 < 32 by omega, show ¬ 52 + i - 16 - 32 < 4 by omega]

@[simp] theorem packFields_opCode (op : BitVec 4) (a : Addr) (d : Word) : Packed.opCode (packFields op a d) = op := by
  ext i hi
  unfold packFields Packed.opCode
  simp only [BitVec.getElem_extractLsb', BitVec.getLsbD_append]
  simp [show ¬ 48 + i < 16 by omega, show ¬ 48 + i - 16 < 32 by omega, show 48 + i - 16 - 32 = i by omega, hi,
    BitVec.getLsbD_eq_getElem]

@[simp] theorem packFields_addr (op : BitVec 4) (a : Addr) (d : Word) : Packed.addr (packFields op a d) = a := by
  ext i hi
  unfold packFields Packed.addr
  simp only [BitVec.getElem_extractLsb', BitVec.getLsbD_append]
  simp [show ¬ 16 + i < 16 by omega, show 16 + i - 16 = i by omega, hi, BitVec.getLsbD_eq_getElem]

@[simp] theorem packFields_data (op : BitVec 4) (a : Addr) (d : Word) : Packed.data (packFields op a d) = d := by
  ext i hi
  unfold packFields Packed.data
  simp only [BitVec.getElem_extractLsb', BitVec.getLsbD_append]
  simp [hi, BitVec.getLsbD_eq_getElem]

/-- A byte in the data field: bits 15:8 are zero and bits 7:0 are the byte (R83). -/
@[simp] theorem setWidth_byte_hi (v : Byte) : (v.setWidth 16).extractLsb' 8 8 = 0 := by
  apply BitVec.eq_of_getLsbD_eq
  intro i hi
  simp

@[simp] theorem setWidth_byte_lo (v : Byte) : (v.setWidth 16).extractLsb' 0 8 = v := by
  apply BitVec.eq_of_getLsbD_eq
  intro i hi
  simp [hi, show i < 16 by omega, BitVec.getLsbD_eq_getElem]

/-- A data field whose bits 15:8 are zero is its low byte. -/
theorem eq_setWidth_of_hi_zero {d : Word} (h : d.extractLsb' 8 8 = 0) : d = (d.extractLsb' 0 8).setWidth 16 := by
  apply BitVec.eq_of_getLsbD_eq
  intro i hi
  have h8 : (d.extractLsb' 8 8).getLsbD (i - 8) = false := by simp [h]
  by_cases h1 : i < 8
  · simp [h1, hi]
  · rw [BitVec.getLsbD_extractLsb', show 8 + (i - 8) = i by omega] at h8
    simp only [show i - 8 < 8 by omega, decide_true, Bool.true_and] at h8
    simp [h1, h8]

/-- The slot the peek path answers is the one that stands at the address. -/
theorem BootSlot.ofAddr?_eq_some {a : Addr} {b : BootSlot} : BootSlot.ofAddr? a = some b ↔ a = b.addr := by
  unfold BootSlot.ofAddr?
  constructor
  · intro h
    split at h
    · cases h; assumption
    split at h
    · cases h; assumption
    split at h
    · cases h; assumption
    split at h
    · cases h; assumption
    · cases h
  · rintro rfl
    cases b <;> rfl

/-- The peek path answers itself exactly at the bootstrap addresses. -/
theorem BootSlot.ofAddr?_eq_none {a : Addr} : BootSlot.ofAddr? a = none ↔ a ∉ Config.BOOT_ADDRS := by
  unfold BootSlot.ofAddr? Config.BOOT_ADDRS
  constructor
  · intro h
    split at h <;> [cases h; skip]
    split at h <;> [cases h; skip]
    split at h <;> [cases h; skip]
    split at h <;> [cases h; skip]
    simp_all
  · intro h
    simp only [List.mem_cons, not_or] at h
    rw [if_neg h.1, if_neg h.2.1, if_neg h.2.2.1, if_neg h.2.2.2.1]

end Sys2Proof
end

