-- ==== Sys2Proof/Laws/Memory.lean ====
section
/-! SUPPORT. The basic laws of MemoryImage: a read after a write, and that a write keeps the canonical form. -/

namespace Sys2Proof.Machine

@[simp] theorem Memory.byteAt_nil (i : Nat) : Memory.byteAt [] i = unlistedByte := rfl

theorem Memory.byteAt_cons (k : Nat) (b : Byte) (m : Memory) (i : Nat) :
    Memory.byteAt ((k, b) :: m) i = if i = k then b else m.byteAt i := rfl

/-- Reading past every listed index gives what an unlisted index reads as. -/
theorem Memory.byteAt_of_lt {m : Memory} {i : Nat} (h : ∀ c ∈ m, i < c.1) : m.byteAt i = unlistedByte := by
  induction m with
  | nil => rfl
  | cons c m ih =>
    obtain ⟨k, b⟩ := c
    have hk : i < k := h (k, b) (by simp)
    rw [byteAt_cons, if_neg (by omega), ih fun c hc => h c (by simp [hc])]

theorem Memory.byteAt_consCell (i : Nat) (v : Byte) (m : Memory) (j : Nat) :
    (Memory.consCell i v m).byteAt j =
      if v = unlistedByte then m.byteAt j else if j = i then v else m.byteAt j := by
  unfold Memory.consCell
  split <;> rfl

/-- A write leaves every other index alone, in any list of cells. -/
theorem Memory.byteAt_store_ne (m : Memory) {i j : Nat} (v : Byte) (h : j ≠ i) :
    (m.store i v).byteAt j = m.byteAt j := by
  induction m with
  | nil => rw [Memory.store, byteAt_consCell]; simp [h]
  | cons c m ih =>
    obtain ⟨k, b⟩ := c
    unfold Memory.store
    split
    · rw [byteAt_consCell]; simp [h]
    split
    · subst_vars; rw [byteAt_consCell, byteAt_cons]; simp [h]
    · rw [byteAt_cons, byteAt_cons, ih]

/-- A read after a write to the same index gives the byte written. -/
theorem Memory.byteAt_store_eq {m : Memory} (hm : m.wf) (i : Nat) (v : Byte) : (m.store i v).byteAt i = v := by
  induction m with
  | nil => rw [Memory.store, byteAt_consCell]; split <;> simp_all
  | cons c m ih =>
    obtain ⟨k, b⟩ := c
    have hp := List.pairwise_cons.mp hm.1
    unfold Memory.store
    split
    · rename_i hlt
      have hfar : ∀ c ∈ (k, b) :: m, i < c.1 := by
        intro c hc
        rcases List.mem_cons.mp hc with rfl | hc
        · exact hlt
        · exact lt_trans hlt (hp.1 c hc)
      rw [byteAt_consCell, byteAt_of_lt hfar]; split <;> simp_all
    split
    · subst_vars
      rw [byteAt_consCell, byteAt_of_lt fun c hc => hp.1 c hc]; split <;> simp_all
    · rename_i hne
      rw [byteAt_cons, if_neg hne]
      exact ih ⟨hp.2, fun c hc => hm.2 c (by simp [hc])⟩

/-- Every cell of a memory after a write was there before, or is the cell written. -/
theorem Memory.mem_store {m : Memory} {i : Nat} {v : Byte} {c : Host.Cell} (h : c ∈ m.store i v) :
    c ∈ m ∨ (c = (i, v) ∧ v ≠ unlistedByte) := by
  induction m with
  | nil => simp only [Memory.store, Memory.consCell] at h; split at h <;> simp_all
  | cons d m ih =>
    obtain ⟨k, b⟩ := d
    unfold Memory.store Memory.consCell at h
    split at h
    · split at h
      · exact .inl h
      · rcases List.mem_cons.mp h with rfl | h
        · exact .inr ⟨rfl, by assumption⟩
        · exact .inl h
    split at h
    · split at h
      · exact .inl (by simp [h])
      · rcases List.mem_cons.mp h with rfl | h
        · exact .inr ⟨rfl, by assumption⟩
        · exact .inl (by simp [h])
    · rcases List.mem_cons.mp h with rfl | h
      · exact .inl (by simp)
      · rcases ih h with h | h
        · exact .inl (by simp [h])
        · exact .inr h

/-- A write below 65536 keeps the canonical form. -/
theorem Memory.store_wf {m : Memory} (hm : m.wf) {i : Nat} (hi : i < 65536) (v : Byte) : (m.store i v).wf := by
  refine ⟨?_, fun c hc => ?_⟩
  · induction m with
    | nil => unfold Memory.store Memory.consCell; split <;> simp
    | cons d m ih =>
      obtain ⟨k, b⟩ := d
      have hp := List.pairwise_cons.mp hm.1
      have hm' : Memory.wf m := ⟨hp.2, fun c hc => hm.2 c (by simp [hc])⟩
      unfold Memory.store Memory.consCell
      split
      · rename_i hlt
        split
        · exact hm.1
        · refine List.pairwise_cons.mpr ⟨fun c hc => ?_, hm.1⟩
          rcases List.mem_cons.mp hc with rfl | hc
          · exact hlt
          · exact lt_trans hlt (hp.1 c hc)
      split
      · subst_vars
        split
        · exact hp.2
        · exact List.pairwise_cons.mpr ⟨fun c hc => hp.1 c hc, hp.2⟩
      · refine List.pairwise_cons.mpr ⟨fun c hc => ?_, ih hm'⟩
        rcases Memory.mem_store hc with hc | ⟨rfl, _⟩
        · exact hp.1 c hc
        · simp only; omega
  · rcases Memory.mem_store hc with hc | ⟨rfl, hv⟩
    · exact hm.2 c hc
    · exact ⟨hi, hv⟩

@[simp] theorem idx_lt (a : Addr) : idx a < 65536 := Nat.mod_lt _ (by decide)

@[simp] theorem idxNext_lt (a : Addr) : idxNext a < 65536 := Nat.mod_lt _ (by decide)

/-- The two indexes of a word always differ (20_memory.md R55). -/
theorem idx_ne_idxNext (a : Addr) : idx a ≠ idxNext a := by
  unfold idx idxNext Config.IMG_SIZE
  omega

/-- The high index of the next presented address is the low index of this one's word. -/
theorem idx_add_one (a : Addr) : idx (a + 1) = idxNext a := by
  unfold idx idxNext Config.IMG_SIZE
  rw [BitVec.toNat_add, show (1 : Addr).toNat = 1 from rfl]
  omega

end Sys2Proof.Machine
end

