-- ==== Sys2Proof/Laws/State.lean ====
section
/-! SUPPORT. One lemma per field of State per named update of Machine/Ops.lean: what the field holds after it. -/

namespace Sys2Proof.Machine

section
variable (s : State)

@[simp] theorem State.memWrite1_img (a : Addr) (v : Byte) : (s.memWrite1 a v).img = s.img.store (idx a) v := rfl
@[simp] theorem State.memWrite1_acia_enabled (a : Addr) (v : Byte) : (s.memWrite1 a v).acia_enabled = s.acia_enabled := rfl
@[simp] theorem State.memWrite1_tx (a : Addr) (v : Byte) : (s.memWrite1 a v).tx = s.tx := rfl
@[simp] theorem State.memWrite1_reload (a : Addr) (v : Byte) : (s.memWrite1 a v).reload = s.reload := rfl
@[simp] theorem State.memWrite1_counter (a : Addr) (v : Byte) : (s.memWrite1 a v).counter = s.counter := rfl
@[simp] theorem State.memWrite1_prescaler (a : Addr) (v : Byte) : (s.memWrite1 a v).prescaler = s.prescaler := rfl
@[simp] theorem State.memWrite1_tmr_enabled (a : Addr) (v : Byte) : (s.memWrite1 a v).tmr_enabled = s.tmr_enabled := rfl
@[simp] theorem State.memWrite1_ipl (a : Addr) (v : Byte) : (s.memWrite1 a v).ipl = s.ipl := rfl
@[simp] theorem State.memWrite1_ipl_events (a : Addr) (v : Byte) : (s.memWrite1 a v).ipl_events = s.ipl_events := rfl
@[simp] theorem State.memWrite1_halted (a : Addr) (v : Byte) : (s.memWrite1 a v).halted = s.halted := rfl
@[simp] theorem State.memWrite1_cfg (a : Addr) (v : Byte) : (s.memWrite1 a v).cfg = s.cfg := rfl
@[simp] theorem State.memWrite1_pending (a : Addr) (v : Byte) : (s.memWrite1 a v).pending = s.pending := rfl
@[simp] theorem State.memWrite1_opsIssued (a : Addr) (v : Byte) : (s.memWrite1 a v).opsIssued = s.opsIssued := rfl
@[simp] theorem State.memWrite1_results (a : Addr) (v : Byte) : (s.memWrite1 a v).results = s.results := rfl
@[simp] theorem State.memWrite1_fatal (a : Addr) (v : Byte) : (s.memWrite1 a v).fatal = s.fatal := rfl

@[simp] theorem State.memWrite2_img (a : Addr) (w : Word) : (s.memWrite2 a w).img = (s.img.store (idx a) (hiByte w)).store (idxNext a) (loByte w) := rfl
@[simp] theorem State.memWrite2_acia_enabled (a : Addr) (w : Word) : (s.memWrite2 a w).acia_enabled = s.acia_enabled := rfl
@[simp] theorem State.memWrite2_tx (a : Addr) (w : Word) : (s.memWrite2 a w).tx = s.tx := rfl
@[simp] theorem State.memWrite2_reload (a : Addr) (w : Word) : (s.memWrite2 a w).reload = s.reload := rfl
@[simp] theorem State.memWrite2_counter (a : Addr) (w : Word) : (s.memWrite2 a w).counter = s.counter := rfl
@[simp] theorem State.memWrite2_prescaler (a : Addr) (w : Word) : (s.memWrite2 a w).prescaler = s.prescaler := rfl
@[simp] theorem State.memWrite2_tmr_enabled (a : Addr) (w : Word) : (s.memWrite2 a w).tmr_enabled = s.tmr_enabled := rfl
@[simp] theorem State.memWrite2_ipl (a : Addr) (w : Word) : (s.memWrite2 a w).ipl = s.ipl := rfl
@[simp] theorem State.memWrite2_ipl_events (a : Addr) (w : Word) : (s.memWrite2 a w).ipl_events = s.ipl_events := rfl
@[simp] theorem State.memWrite2_halted (a : Addr) (w : Word) : (s.memWrite2 a w).halted = s.halted := rfl
@[simp] theorem State.memWrite2_cfg (a : Addr) (w : Word) : (s.memWrite2 a w).cfg = s.cfg := rfl
@[simp] theorem State.memWrite2_pending (a : Addr) (w : Word) : (s.memWrite2 a w).pending = s.pending := rfl
@[simp] theorem State.memWrite2_opsIssued (a : Addr) (w : Word) : (s.memWrite2 a w).opsIssued = s.opsIssued := rfl
@[simp] theorem State.memWrite2_results (a : Addr) (w : Word) : (s.memWrite2 a w).results = s.results := rfl
@[simp] theorem State.memWrite2_fatal (a : Addr) (w : Word) : (s.memWrite2 a w).fatal = s.fatal := rfl

@[simp] theorem State.returnRead_img (r : ReadResult) : (s.returnRead r).img = s.img := rfl
@[simp] theorem State.returnRead_acia_enabled (r : ReadResult) : (s.returnRead r).acia_enabled = s.acia_enabled := rfl
@[simp] theorem State.returnRead_tx (r : ReadResult) : (s.returnRead r).tx = s.tx := rfl
@[simp] theorem State.returnRead_reload (r : ReadResult) : (s.returnRead r).reload = s.reload := rfl
@[simp] theorem State.returnRead_counter (r : ReadResult) : (s.returnRead r).counter = s.counter := rfl
@[simp] theorem State.returnRead_prescaler (r : ReadResult) : (s.returnRead r).prescaler = s.prescaler := rfl
@[simp] theorem State.returnRead_tmr_enabled (r : ReadResult) : (s.returnRead r).tmr_enabled = s.tmr_enabled := rfl
@[simp] theorem State.returnRead_ipl (r : ReadResult) : (s.returnRead r).ipl = s.ipl := rfl
@[simp] theorem State.returnRead_ipl_events (r : ReadResult) : (s.returnRead r).ipl_events = s.ipl_events := rfl
@[simp] theorem State.returnRead_halted (r : ReadResult) : (s.returnRead r).halted = s.halted := rfl
@[simp] theorem State.returnRead_cfg (r : ReadResult) : (s.returnRead r).cfg = s.cfg := rfl
@[simp] theorem State.returnRead_pending (r : ReadResult) : (s.returnRead r).pending = s.pending := rfl
@[simp] theorem State.returnRead_opsIssued (r : ReadResult) : (s.returnRead r).opsIssued = s.opsIssued := rfl
@[simp] theorem State.returnRead_results (r : ReadResult) : (s.returnRead r).results = s.results ++ [r] := rfl
@[simp] theorem State.returnRead_fatal (r : ReadResult) : (s.returnRead r).fatal = s.fatal := rfl

@[simp] theorem State.setIPL_img (l : Level) : (s.setIPL l).img = s.img := rfl
@[simp] theorem State.setIPL_acia_enabled (l : Level) : (s.setIPL l).acia_enabled = s.acia_enabled := rfl
@[simp] theorem State.setIPL_tx (l : Level) : (s.setIPL l).tx = s.tx := rfl
@[simp] theorem State.setIPL_reload (l : Level) : (s.setIPL l).reload = s.reload := rfl
@[simp] theorem State.setIPL_counter (l : Level) : (s.setIPL l).counter = s.counter := rfl
@[simp] theorem State.setIPL_prescaler (l : Level) : (s.setIPL l).prescaler = s.prescaler := rfl
@[simp] theorem State.setIPL_tmr_enabled (l : Level) : (s.setIPL l).tmr_enabled = s.tmr_enabled := rfl
@[simp] theorem State.setIPL_ipl (l : Level) : (s.setIPL l).ipl = l := rfl
@[simp] theorem State.setIPL_ipl_events (l : Level) : (s.setIPL l).ipl_events = s.ipl_events ++ [l] := rfl
@[simp] theorem State.setIPL_halted (l : Level) : (s.setIPL l).halted = s.halted := rfl
@[simp] theorem State.setIPL_cfg (l : Level) : (s.setIPL l).cfg = s.cfg := rfl
@[simp] theorem State.setIPL_pending (l : Level) : (s.setIPL l).pending = s.pending := rfl
@[simp] theorem State.setIPL_opsIssued (l : Level) : (s.setIPL l).opsIssued = s.opsIssued := rfl
@[simp] theorem State.setIPL_results (l : Level) : (s.setIPL l).results = s.results := rfl
@[simp] theorem State.setIPL_fatal (l : Level) : (s.setIPL l).fatal = s.fatal := rfl

@[simp] theorem State.transmit_img (b : Byte) : (s.transmit b).img = s.img := rfl
@[simp] theorem State.transmit_acia_enabled (b : Byte) : (s.transmit b).acia_enabled = s.acia_enabled := rfl
@[simp] theorem State.transmit_tx (b : Byte) : (s.transmit b).tx = s.tx ++ [b] := rfl
@[simp] theorem State.transmit_reload (b : Byte) : (s.transmit b).reload = s.reload := rfl
@[simp] theorem State.transmit_counter (b : Byte) : (s.transmit b).counter = s.counter := rfl
@[simp] theorem State.transmit_prescaler (b : Byte) : (s.transmit b).prescaler = s.prescaler := rfl
@[simp] theorem State.transmit_tmr_enabled (b : Byte) : (s.transmit b).tmr_enabled = s.tmr_enabled := rfl
@[simp] theorem State.transmit_ipl (b : Byte) : (s.transmit b).ipl = s.ipl := rfl
@[simp] theorem State.transmit_ipl_events (b : Byte) : (s.transmit b).ipl_events = s.ipl_events := rfl
@[simp] theorem State.transmit_halted (b : Byte) : (s.transmit b).halted = s.halted := rfl
@[simp] theorem State.transmit_cfg (b : Byte) : (s.transmit b).cfg = s.cfg := rfl
@[simp] theorem State.transmit_pending (b : Byte) : (s.transmit b).pending = s.pending := rfl
@[simp] theorem State.transmit_opsIssued (b : Byte) : (s.transmit b).opsIssued = s.opsIssued := rfl
@[simp] theorem State.transmit_results (b : Byte) : (s.transmit b).results = s.results := rfl
@[simp] theorem State.transmit_fatal (b : Byte) : (s.transmit b).fatal = s.fatal := rfl

@[simp] theorem State.setAciaEnabled_img (e : Bool) : (s.setAciaEnabled e).img = s.img := rfl
@[simp] theorem State.setAciaEnabled_acia_enabled (e : Bool) : (s.setAciaEnabled e).acia_enabled = e := rfl
@[simp] theorem State.setAciaEnabled_tx (e : Bool) : (s.setAciaEnabled e).tx = s.tx := rfl
@[simp] theorem State.setAciaEnabled_reload (e : Bool) : (s.setAciaEnabled e).reload = s.reload := rfl
@[simp] theorem State.setAciaEnabled_counter (e : Bool) : (s.setAciaEnabled e).counter = s.counter := rfl
@[simp] theorem State.setAciaEnabled_prescaler (e : Bool) : (s.setAciaEnabled e).prescaler = s.prescaler := rfl
@[simp] theorem State.setAciaEnabled_tmr_enabled (e : Bool) : (s.setAciaEnabled e).tmr_enabled = s.tmr_enabled := rfl
@[simp] theorem State.setAciaEnabled_ipl (e : Bool) : (s.setAciaEnabled e).ipl = s.ipl := rfl
@[simp] theorem State.setAciaEnabled_ipl_events (e : Bool) : (s.setAciaEnabled e).ipl_events = s.ipl_events := rfl
@[simp] theorem State.setAciaEnabled_halted (e : Bool) : (s.setAciaEnabled e).halted = s.halted := rfl
@[simp] theorem State.setAciaEnabled_cfg (e : Bool) : (s.setAciaEnabled e).cfg = s.cfg := rfl
@[simp] theorem State.setAciaEnabled_pending (e : Bool) : (s.setAciaEnabled e).pending = s.pending := rfl
@[simp] theorem State.setAciaEnabled_opsIssued (e : Bool) : (s.setAciaEnabled e).opsIssued = s.opsIssued := rfl
@[simp] theorem State.setAciaEnabled_results (e : Bool) : (s.setAciaEnabled e).results = s.results := rfl
@[simp] theorem State.setAciaEnabled_fatal (e : Bool) : (s.setAciaEnabled e).fatal = s.fatal := rfl

@[simp] theorem State.setTmrEnabled_img (e : Bool) : (s.setTmrEnabled e).img = s.img := rfl
@[simp] theorem State.setTmrEnabled_acia_enabled (e : Bool) : (s.setTmrEnabled e).acia_enabled = s.acia_enabled := rfl
@[simp] theorem State.setTmrEnabled_tx (e : Bool) : (s.setTmrEnabled e).tx = s.tx := rfl
@[simp] theorem State.setTmrEnabled_reload (e : Bool) : (s.setTmrEnabled e).reload = s.reload := rfl
@[simp] theorem State.setTmrEnabled_counter (e : Bool) : (s.setTmrEnabled e).counter = s.counter := rfl
@[simp] theorem State.setTmrEnabled_prescaler (e : Bool) : (s.setTmrEnabled e).prescaler = s.prescaler := rfl
@[simp] theorem State.setTmrEnabled_tmr_enabled (e : Bool) : (s.setTmrEnabled e).tmr_enabled = e := rfl
@[simp] theorem State.setTmrEnabled_ipl (e : Bool) : (s.setTmrEnabled e).ipl = s.ipl := rfl
@[simp] theorem State.setTmrEnabled_ipl_events (e : Bool) : (s.setTmrEnabled e).ipl_events = s.ipl_events := rfl
@[simp] theorem State.setTmrEnabled_halted (e : Bool) : (s.setTmrEnabled e).halted = s.halted := rfl
@[simp] theorem State.setTmrEnabled_cfg (e : Bool) : (s.setTmrEnabled e).cfg = s.cfg := rfl
@[simp] theorem State.setTmrEnabled_pending (e : Bool) : (s.setTmrEnabled e).pending = s.pending := rfl
@[simp] theorem State.setTmrEnabled_opsIssued (e : Bool) : (s.setTmrEnabled e).opsIssued = s.opsIssued := rfl
@[simp] theorem State.setTmrEnabled_results (e : Bool) : (s.setTmrEnabled e).results = s.results := rfl
@[simp] theorem State.setTmrEnabled_fatal (e : Bool) : (s.setTmrEnabled e).fatal = s.fatal := rfl

@[simp] theorem State.setReload_img (r : Reload) : (s.setReload r).img = s.img := rfl
@[simp] theorem State.setReload_acia_enabled (r : Reload) : (s.setReload r).acia_enabled = s.acia_enabled := rfl
@[simp] theorem State.setReload_tx (r : Reload) : (s.setReload r).tx = s.tx := rfl
@[simp] theorem State.setReload_reload (r : Reload) : (s.setReload r).reload = r := rfl
@[simp] theorem State.setReload_counter (r : Reload) : (s.setReload r).counter = s.counter := rfl
@[simp] theorem State.setReload_prescaler (r : Reload) : (s.setReload r).prescaler = s.prescaler := rfl
@[simp] theorem State.setReload_tmr_enabled (r : Reload) : (s.setReload r).tmr_enabled = s.tmr_enabled := rfl
@[simp] theorem State.setReload_ipl (r : Reload) : (s.setReload r).ipl = s.ipl := rfl
@[simp] theorem State.setReload_ipl_events (r : Reload) : (s.setReload r).ipl_events = s.ipl_events := rfl
@[simp] theorem State.setReload_halted (r : Reload) : (s.setReload r).halted = s.halted := rfl
@[simp] theorem State.setReload_cfg (r : Reload) : (s.setReload r).cfg = s.cfg := rfl
@[simp] theorem State.setReload_pending (r : Reload) : (s.setReload r).pending = s.pending := rfl
@[simp] theorem State.setReload_opsIssued (r : Reload) : (s.setReload r).opsIssued = s.opsIssued := rfl
@[simp] theorem State.setReload_results (r : Reload) : (s.setReload r).results = s.results := rfl
@[simp] theorem State.setReload_fatal (r : Reload) : (s.setReload r).fatal = s.fatal := rfl

@[simp] theorem State.setCounts_img (p c : Int) : (s.setCounts p c).img = s.img := rfl
@[simp] theorem State.setCounts_acia_enabled (p c : Int) : (s.setCounts p c).acia_enabled = s.acia_enabled := rfl
@[simp] theorem State.setCounts_tx (p c : Int) : (s.setCounts p c).tx = s.tx := rfl
@[simp] theorem State.setCounts_reload (p c : Int) : (s.setCounts p c).reload = s.reload := rfl
@[simp] theorem State.setCounts_counter (p c : Int) : (s.setCounts p c).counter = c := rfl
@[simp] theorem State.setCounts_prescaler (p c : Int) : (s.setCounts p c).prescaler = p := rfl
@[simp] theorem State.setCounts_tmr_enabled (p c : Int) : (s.setCounts p c).tmr_enabled = s.tmr_enabled := rfl
@[simp] theorem State.setCounts_ipl (p c : Int) : (s.setCounts p c).ipl = s.ipl := rfl
@[simp] theorem State.setCounts_ipl_events (p c : Int) : (s.setCounts p c).ipl_events = s.ipl_events := rfl
@[simp] theorem State.setCounts_halted (p c : Int) : (s.setCounts p c).halted = s.halted := rfl
@[simp] theorem State.setCounts_cfg (p c : Int) : (s.setCounts p c).cfg = s.cfg := rfl
@[simp] theorem State.setCounts_pending (p c : Int) : (s.setCounts p c).pending = s.pending := rfl
@[simp] theorem State.setCounts_opsIssued (p c : Int) : (s.setCounts p c).opsIssued = s.opsIssued := rfl
@[simp] theorem State.setCounts_results (p c : Int) : (s.setCounts p c).results = s.results := rfl
@[simp] theorem State.setCounts_fatal (p c : Int) : (s.setCounts p c).fatal = s.fatal := rfl

@[simp] theorem State.raiseFatal_img (k : FatalCode) (a : Addr) (w : Option Word) : (s.raiseFatal k a w).img = s.img := rfl
@[simp] theorem State.raiseFatal_acia_enabled (k : FatalCode) (a : Addr) (w : Option Word) : (s.raiseFatal k a w).acia_enabled = s.acia_enabled := rfl
@[simp] theorem State.raiseFatal_tx (k : FatalCode) (a : Addr) (w : Option Word) : (s.raiseFatal k a w).tx = s.tx := rfl
@[simp] theorem State.raiseFatal_reload (k : FatalCode) (a : Addr) (w : Option Word) : (s.raiseFatal k a w).reload = s.reload := rfl
@[simp] theorem State.raiseFatal_counter (k : FatalCode) (a : Addr) (w : Option Word) : (s.raiseFatal k a w).counter = s.counter := rfl
@[simp] theorem State.raiseFatal_prescaler (k : FatalCode) (a : Addr) (w : Option Word) : (s.raiseFatal k a w).prescaler = s.prescaler := rfl
@[simp] theorem State.raiseFatal_tmr_enabled (k : FatalCode) (a : Addr) (w : Option Word) : (s.raiseFatal k a w).tmr_enabled = s.tmr_enabled := rfl
@[simp] theorem State.raiseFatal_ipl (k : FatalCode) (a : Addr) (w : Option Word) : (s.raiseFatal k a w).ipl = s.ipl := rfl
@[simp] theorem State.raiseFatal_ipl_events (k : FatalCode) (a : Addr) (w : Option Word) : (s.raiseFatal k a w).ipl_events = s.ipl_events := rfl
@[simp] theorem State.raiseFatal_halted (k : FatalCode) (a : Addr) (w : Option Word) : (s.raiseFatal k a w).halted = true := rfl
@[simp] theorem State.raiseFatal_cfg (k : FatalCode) (a : Addr) (w : Option Word) : (s.raiseFatal k a w).cfg = s.cfg := rfl
@[simp] theorem State.raiseFatal_pending (k : FatalCode) (a : Addr) (w : Option Word) : (s.raiseFatal k a w).pending = s.pending := rfl
@[simp] theorem State.raiseFatal_opsIssued (k : FatalCode) (a : Addr) (w : Option Word) : (s.raiseFatal k a w).opsIssued = s.opsIssued := rfl
@[simp] theorem State.raiseFatal_results (k : FatalCode) (a : Addr) (w : Option Word) : (s.raiseFatal k a w).results = s.results := rfl
@[simp] theorem State.raiseFatal_fatal (k : FatalCode) (a : Addr) (w : Option Word) : (s.raiseFatal k a w).fatal = some ⟨k, a, w⟩ := rfl

@[simp] theorem State.issue_img (rest : List Request) : (s.issue rest).img = s.img := rfl
@[simp] theorem State.issue_acia_enabled (rest : List Request) : (s.issue rest).acia_enabled = s.acia_enabled := rfl
@[simp] theorem State.issue_tx (rest : List Request) : (s.issue rest).tx = s.tx := rfl
@[simp] theorem State.issue_reload (rest : List Request) : (s.issue rest).reload = s.reload := rfl
@[simp] theorem State.issue_counter (rest : List Request) : (s.issue rest).counter = s.counter := rfl
@[simp] theorem State.issue_prescaler (rest : List Request) : (s.issue rest).prescaler = s.prescaler := rfl
@[simp] theorem State.issue_tmr_enabled (rest : List Request) : (s.issue rest).tmr_enabled = s.tmr_enabled := rfl
@[simp] theorem State.issue_ipl (rest : List Request) : (s.issue rest).ipl = s.ipl := rfl
@[simp] theorem State.issue_ipl_events (rest : List Request) : (s.issue rest).ipl_events = s.ipl_events := rfl
@[simp] theorem State.issue_halted (rest : List Request) : (s.issue rest).halted = s.halted := rfl
@[simp] theorem State.issue_cfg (rest : List Request) : (s.issue rest).cfg = s.cfg := rfl
@[simp] theorem State.issue_pending (rest : List Request) : (s.issue rest).pending = rest := rfl
@[simp] theorem State.issue_opsIssued (rest : List Request) : (s.issue rest).opsIssued = s.opsIssued + 1 := rfl
@[simp] theorem State.issue_results (rest : List Request) : (s.issue rest).results = s.results := rfl
@[simp] theorem State.issue_fatal (rest : List Request) : (s.issue rest).fatal = s.fatal := rfl

end

end Sys2Proof.Machine
end

