-- ==== Sys2Proof/Laws/Ops.lean ====
section
/-! SUPPORT. What the shared operations can do, each said once: completion and stopping, the image primitives, cycle-sync. -/

namespace Sys2Proof.Machine

theorem whenRunning_of_running {s : State} (h : s.halted = false) (t : State) : whenRunning s t = .next t := by
  simp [whenRunning, h]

theorem whenRunning_of_halted {s : State} (h : s.halted = true) (t : State) :
    whenRunning s t = .fault .halted := by
  simp [whenRunning, h]

/-- All an operation can do: complete, and only when the block is not halted. -/
theorem whenRunning_eq_next {s t u : State} : whenRunning s t = .next u ↔ s.halted = false ∧ t = u := by
  unfold whenRunning
  split <;> simp_all

/-- The state an operation leaves when it completes (`exec` is this, guarded by the halt latch). -/
def effect (i : Instr) (s : State) : State :=
  match i with
  | .rdbAciaSr _ => s.returnRead (.byte s.cfg.ACIA_TX_READY)
  | .rdbAciaDr a => s.raiseFatal .F_ACIA_DATA_READ a none
  | .rdbTmrSr a => s.returnRead (.byte (s.memRead1 a))
  | .rdbMem a =>
    if s.cfg.UNBOUND_DIR_FATAL = true ∧ a ∈ s.cfg.wrAddrs then s.raiseFatal .F_UNBOUND_DIR_READ a none
    else s.returnRead (.byte (s.memRead1 a))
  | .wrbAciaDr _ v => s.transmit v
  | .wrbAciaCr _ v => s.setAciaEnabled (isEnableMagic s.cfg v)
  | .wrbTmrRh _ v => s.setReload (reloadWithHigh s.reload v)
  | .wrbTmrRm _ v => s.setReload (reloadWithMid s.reload v)
  | .wrbTmrRl _ v => s.setReload (reloadWithLow s.reload v)
  | .wrbTmrCr _ v => s.setTmrEnabled (isTimerEnable v)
  | .wrbTmrSr _ v => if isStatusClear v then s.setIPL Config.IPL_IDLE else s
  | .wrbMem a v => s.memWrite1 a v
  | .rdwDev a => s.raiseFatal .F_WORD_READ_DEVICE a none
  | .rdwMem a => s.returnRead (.word (s.memRead2 a))
  | .wrwDev a w => s.raiseFatal .F_WORD_WRITE_DEVICE a (some w)
  | .wrwMem a w => s.memWrite2 a w
  | .peekwBoot b => s.returnRead (.word (bootWord s.cfg b))
  | .peekwDev a => s.raiseFatal .F_PEEK_DEVICE a none
  | .peekwMem a => s.returnRead (.word (s.memRead2 a))
  | .sync n =>
    match s.cfg.SYNC_GATE with
    | .literal => s.cycleSync n
    | .whole => if s.tmr_enabled then s.cycleSync n else s

theorem exec_eq_whenRunning (i : Instr) (s : State) : exec i s = whenRunning s (effect i s) := by
  cases i <;> rfl

/-- Every operation completes exactly where the block is not halted. -/
theorem exec_eq_next {i : Instr} {s t : State} : exec i s = .next t ↔ s.halted = false ∧ effect i s = t := by
  rw [exec_eq_whenRunning, whenRunning_eq_next]

theorem exec_of_running (i : Instr) {s : State} (h : s.halted = false) : exec i s = .next (effect i s) := by
  rw [exec_eq_whenRunning, whenRunning_of_running h]

/-- `RDB.MEM` returns the image byte, but at a write-only port under the reading `UNBOUND_DIR_FATAL`. -/
theorem effect_rdbMem_of_plain {a : Addr} {s : State} (h : ¬ (s.cfg.UNBOUND_DIR_FATAL = true ∧ a ∈ s.cfg.wrAddrs)) :
    effect (.rdbMem a) s = s.returnRead (.byte (s.memRead1 a)) :=
  if_neg h

theorem effect_rdbMem_of_unbound {a : Addr} {s : State} (h : s.cfg.UNBOUND_DIR_FATAL = true ∧ a ∈ s.cfg.wrAddrs) :
    effect (.rdbMem a) s = s.raiseFatal .F_UNBOUND_DIR_READ a none :=
  if_pos h

theorem memWrite1_byteAt_eq {s : State} (h : s.img.wf) (a : Addr) (v : Byte) :
    (s.memWrite1 a v).img.byteAt (idx a) = v :=
  Memory.byteAt_store_eq h _ _

theorem memWrite1_byteAt_ne (s : State) (a : Addr) (v : Byte) {j : Nat} (h : j ≠ idx a) :
    (s.memWrite1 a v).img.byteAt j = s.img.byteAt j :=
  Memory.byteAt_store_ne _ _ h

theorem memWrite2_byteAt_hi {s : State} (h : s.img.wf) (a : Addr) (w : Word) :
    (s.memWrite2 a w).img.byteAt (idx a) = hiByte w := by
  rw [State.memWrite2_img, Memory.byteAt_store_ne _ _ (idx_ne_idxNext a), Memory.byteAt_store_eq h]

theorem memWrite2_byteAt_lo {s : State} (h : s.img.wf) (a : Addr) (w : Word) :
    (s.memWrite2 a w).img.byteAt (idxNext a) = loByte w :=
  Memory.byteAt_store_eq (Memory.store_wf h (idx_lt a) _) _ _

theorem memWrite2_byteAt_ne (s : State) (a : Addr) (w : Word) {j : Nat} (h : j ≠ idx a) (h' : j ≠ idxNext a) :
    (s.memWrite2 a w).img.byteAt j = s.img.byteAt j := by
  rw [State.memWrite2_img, Memory.byteAt_store_ne _ _ h', Memory.byteAt_store_ne _ _ h]

/-- Every image primitive keeps the canonical form. -/
theorem memWrite1_wf {s : State} (h : s.img.wf) (a : Addr) (v : Byte) : (s.memWrite1 a v).img.wf :=
  Memory.store_wf h (idx_lt a) v

theorem memWrite2_wf {s : State} (h : s.img.wf) (a : Addr) (w : Word) : (s.memWrite2 a w).img.wf :=
  Memory.store_wf (Memory.store_wf h (idx_lt a) _) (idxNext_lt a) _

/-- All that steps (b) and (c) can do: a reload event, with the request under the enable bit, or none. -/
theorem tickAndReload_cases (s : State) (p : Int) :
    (tickCounter p s.counter ≤ 0 ∧ s.tmr_enabled = true ∧
      s.tickAndReload p = (s.setCounts (tickPrescaler p) s.reload.toNat).setIPL Config.TMR_IRQ_LEVEL) ∨
    (tickCounter p s.counter ≤ 0 ∧ s.tmr_enabled = false ∧
      s.tickAndReload p = s.setCounts (tickPrescaler p) s.reload.toNat) ∨
    (0 < tickCounter p s.counter ∧
      s.tickAndReload p = s.setCounts (tickPrescaler p) (tickCounter p s.counter)) := by
  by_cases hc : tickCounter p s.counter ≤ 0
  · cases he : s.tmr_enabled <;>
      simp [State.tickAndReload, State.requestIfEnabled, isReloadEvent, hc, he]
  · simp [State.tickAndReload, isReloadEvent, hc]
    omega

/-- All that `SYNC` can do: nothing (a disabled timer under the reading `whole`), or cycle-sync. -/
theorem effect_sync (n : Nat) (s : State) :
    (s.cfg.SYNC_GATE = .whole ∧ s.tmr_enabled = false ∧ effect (.sync n) s = s) ∨
    (¬ (s.cfg.SYNC_GATE = .whole ∧ s.tmr_enabled = false) ∧ effect (.sync n) s = s.cycleSync n) := by
  unfold effect
  cases s.cfg.SYNC_GATE <;> cases h : s.tmr_enabled <;> simp

end Sys2Proof.Machine
end

