-- ==== Sys2Proof/Laws/Step.lean ====
section
/-! SUPPORT. All that one step can do, said once. -/

namespace Sys2Proof.Machine

theorem step_idle {s : State} (hh : s.halted = false) (hw : s.cfg.WellFormed) (hp : s.pending = []) :
    step s = .next s := by
  simp only [step, hh, hp, if_pos hw, Bool.false_eq_true, if_false]

/-- A step performs the operation its next request decodes to. -/
theorem step_of_decode {s : State} {r : Request} {rest : List Request} {i : Instr} (hh : s.halted = false)
    (hw : s.cfg.WellFormed) (hp : s.pending = r :: rest) (hd : r.decode s.cfg = .ok i) :
    step s = exec i (s.issue rest) := by
  simp only [step, hh, hp, hd, if_pos hw, Bool.false_eq_true, if_false]

theorem step_of_error {s : State} {r : Request} {rest : List Request} {e : DecodeError} (hh : s.halted = false)
    (hw : s.cfg.WellFormed) (hp : s.pending = r :: rest) (hd : r.decode s.cfg = .error e) :
    step s = .refused (.notAnOperation e) := by
  simp only [step, hh, hp, hd, if_pos hw, Bool.false_eq_true, if_false]

theorem step_of_illFormed {s : State} (hh : s.halted = false) (hw : ¬ s.cfg.WellFormed) :
    step s = .refused .illFormedConfig := by
  simp only [step, hh, if_neg hw, Bool.false_eq_true, if_false]

/-- A step that completes is idle, or performs the decoded operation; both only where the block is not halted
and the configuration is well formed. -/
theorem step_eq_next {s t : State} (h : step s = .next t) :
    s.halted = false ∧ s.cfg.WellFormed ∧
      ((s.pending = [] ∧ t = s) ∨
       ∃ r rest i, s.pending = r :: rest ∧ r.decode s.cfg = .ok i ∧ exec i (s.issue rest) = .next t) := by
  cases hh : s.halted with
  | true => simp [step, hh] at h
  | false =>
    by_cases hw : s.cfg.WellFormed
    · refine ⟨rfl, hw, ?_⟩
      cases hp : s.pending with
      | nil => rw [step_idle hh hw hp] at h; cases h; exact .inl ⟨rfl, rfl⟩
      | cons r rest =>
        cases hd : r.decode s.cfg with
        | ok i => exact .inr ⟨r, rest, i, rfl, hd, step_of_decode hh hw hp hd ▸ h⟩
        | error e => rw [step_of_error hh hw hp hd] at h; cases h
    · rw [step_of_illFormed hh hw] at h; cases h

theorem step_of_halted {s : State} (h : s.halted = true) : step s = .fault .halted := by
  simp [step, h]

end Sys2Proof.Machine
end

