-- ==== Sys2Proof/Laws/Run.lean ====
section
/-! SUPPORT. Sequences: behaviours performed in order, and operations presented in order. -/

namespace Sys2Proof.Machine

@[simp] theorem execAll_nil (s : State) : execAll [] s = .next s := rfl

theorem execAll_cons (i : Instr) (is : List Instr) {s : State} (h : s.halted = false) :
    execAll (i :: is) s = execAll is (effect i s) := by
  simp [execAll, exec_of_running i h]

/-- A sequence whose first part completes goes on from the state that part leaves. -/
theorem execAll_append {is : List Instr} {s t : State} (js : List Instr) (h : execAll is s = .next t) :
    execAll (is ++ js) s = execAll js t := by
  induction is generalizing s with
  | nil => cases h; rfl
  | cons i is ih =>
    simp only [execAll, List.cons_append] at h ⊢
    cases hx : exec i s with
    | next u => rw [hx] at h; exact ih h
    | fault r => rw [hx] at h; cases h
    | refused r => rw [hx] at h; cases h

/-- Presenting an operation performs its behaviour and counts it; the trace behind it is untouched. -/
theorem present_of_running {o : Op} {s : State} (h : s.halted = false) (hw : s.cfg.WellFormed) :
    present o s = exec (decode s.cfg o) { s with opsIssued := s.opsIssued + 1 } :=
  step_of_decode (s := { s with pending := .op o :: s.pending }) h hw rfl rfl

/-- Operations after a fatal one do not happen; those after a completed prefix start from where it stopped. -/
theorem presentAll_append {os : List Op} {s t : State} (os' : List Op) (h : presentAll os s = .next t)
    (ht : t.halted = false) : presentAll (os ++ os') s = presentAll os' t := by
  induction os generalizing s with
  | nil => cases h; rfl
  | cons o os ih =>
    simp only [presentAll, List.cons_append] at h ⊢
    cases hx : present o s with
    | next u =>
      simp only [hx] at h ⊢
      cases hu : u.halted with
      | true => simp only [hu, if_true] at h; cases h; simp [ht] at hu
      | false => simp only [hu, Bool.false_eq_true, if_false] at h ⊢; exact ih h
    | fault r => simp [hx] at h
    | refused r => simp [hx] at h

end Sys2Proof.Machine
end

