-- ==== Sys2Proof/Laws/Host.lean ====
section
/-! SUPPORT. What the host's loader and the host's presenting of operations can do to the block, each said once. -/

namespace Sys2Proof.Machine

/-- A record's load touches the image alone. -/
theorem loadBytes_frame (A : Nat) (bs : List Byte) (s : State) :
    (loadBytes A bs s).state = { s with img := (loadBytes A bs s).state.img } := by
  induction bs generalizing A s with
  | nil => rfl
  | cons b bs ih =>
    simp only [loadBytes]
    split
    · simp only []
      rw [ih]
    · rfl

/-- A text's load touches the image alone. -/
theorem loadRecords_frame (rs : List (Nat × List Byte)) (s : State) :
    (loadRecords rs s).state = { s with img := (loadRecords rs s).state.img } := by
  induction rs generalizing s with
  | nil => rfl
  | cons r rs ih =>
    obtain ⟨A, bs⟩ := r
    simp only [loadRecords]
    split
    · have h := ih (loadBytes A bs s).state
      rw [loadBytes_frame A bs s] at h ⊢
      exact h
    · exact loadBytes_frame A bs s

/-- A file's load touches the image alone. -/
theorem loadFile_frame {file : Option (List Char)} {s : State} {r : LoadResult} (h : loadFile file s = some r) :
    r.state = { s with img := r.state.img } := by
  unfold loadFile at h
  split at h
  · cases h; rfl
  · simp only [loadText] at h
    split at h
    · cases h
    · cases h; exact loadRecords_frame _ _

/-- After an operation that did not halt the block the rest is presented. -/
theorem presentAll_cons_of_running {o : Op} (os : List Op) {s u : State} (h : present o s = .next u)
    (hu : u.halted = false) : presentAll (o :: os) s = presentAll os u := by
  simp [presentAll, h, hu]

/-- A step's last operation is its `SYNC` (70_reset_and_hazards.md R213). -/
theorem CpuStep.ops_getLast? (c : CpuStep) : c.ops.getLast? = some (.sync c.cycles) := by
  simp [CpuStep.ops, stepOps, List.getLast?_append]

/-- A bootstrap peek returns its word and changes nothing else (40_bus_memory_ops.md R118). -/
theorem present_bootPeek {s : State} (b : BootSlot) (h : s.halted = false) (hw : s.cfg.WellFormed) :
    present (.peekw b.addr) s = .next { s with
      opsIssued := s.opsIssued + 1, results := s.results ++ [.word (bootWord s.cfg b)] } := by
  have hd : decode s.cfg (.peekw b.addr) = .peekwBoot b := by cases b <;> rfl
  rw [present_of_running h hw, hd]
  simp [exec, execPeekwBoot, whenRunning, State.returnRead, h]

/-- The CPU reset returns the four configured words and changes nothing else (70_reset_and_hazards.md R212). -/
theorem presentAll_cpuReset {s : State} (h : s.halted = false) (hw : s.cfg.WellFormed) :
    presentAll cpuReset s = .next { s with
      opsIssued := s.opsIssued + 4
      results := s.results ++ [.word s.cfg.BOOT_W0, .word s.cfg.BOOT_W2, .word s.cfg.BOOT_W4, .word s.cfg.START_PC] } := by
  have step (b : BootSlot) (os : List Op) (t : State) (ht : t.halted = false) (htw : t.cfg.WellFormed) :=
    presentAll_cons_of_running os (present_bootPeek b ht htw) (by simpa using ht)
  change presentAll [.peekw BootSlot.at0.addr, .peekw BootSlot.at2.addr, .peekw BootSlot.at4.addr,
    .peekw BootSlot.at6.addr] s = _
  rw [step .at0 _ _ h hw, step .at2, step .at4, step .at6]
  · simp [presentAll, bootWord]
  all_goals first | exact h | exact hw

end Sys2Proof.Machine
end

