-- ==== Sys2Proof/Laws/OpcodeTable.lean ====
section
/-! SUPPORT. How a row of the opcode table matches a word, field by field, and how a selection over a concatenated table reduces to its parts. -/

namespace Sys2Proof.Machine

/-- Two 52-bit words are equal when their three fields are. -/
theorem word52_eq_iff (x y : BitVec 52) : x = y ↔ x.extractLsb' 48 4 = y.extractLsb' 48 4 ∧
    x.extractLsb' 16 32 = y.extractLsb' 16 32 ∧ x.extractLsb' 0 16 = y.extractLsb' 0 16 := by
  refine ⟨by rintro rfl; exact ⟨rfl, rfl, rfl⟩, fun ⟨h1, h2, h3⟩ => ?_⟩
  apply BitVec.eq_of_getLsbD_eq
  intro i hi
  by_cases c1 : i < 16
  · simpa [c1] using congrArg (fun z => z.getLsbD i) h3
  by_cases c2 : i < 48
  · simpa [show i - 16 < 32 by omega, show 16 + (i - 16) = i by omega] using
      congrArg (fun z => z.getLsbD (i - 16)) h2
  · simpa [show i - 48 < 4 by omega, show 48 + (i - 48) = i by omega] using
      congrArg (fun z => z.getLsbD (i - 48)) h1

theorem extractLsb'_and52 (x y : BitVec 52) (s l : Nat) :
    (x &&& y).extractLsb' s l = x.extractLsb' s l &&& y.extractLsb' s l := by
  apply BitVec.eq_of_getLsbD_eq
  intro i hi
  simp [hi]

/-- The fields of a word written as op code, address and data. -/
theorem fields_of_append (x : BitVec 4) (y : Addr) (z : Word) :
    (x ++ y ++ z : BitVec 52).extractLsb' 48 4 = x ∧ (x ++ y ++ z : BitVec 52).extractLsb' 16 32 = y ∧
      (x ++ y ++ z : BitVec 52).extractLsb' 0 16 = z := by
  refine ⟨?_, ?_, ?_⟩ <;> apply BitVec.eq_of_getLsbD_eq <;> intro i hi <;>
    rw [BitVec.getLsbD_extractLsb', BitVec.getLsbD_append, BitVec.getLsbD_append]
  · simp [hi, show ¬ 48 + i < 16 by omega, show ¬ 48 + i - 16 < 32 by omega, show 48 + i - 16 - 32 = i by omega]
  · simp [hi, show ¬ 16 + i < 16 by omega, show 16 + i - 16 = i by omega]
  · simp [hi]

/-- A row whose mask covers the op code matches a word of that op code exactly where the address and the data match. -/
theorem row_matches_iff {t mask bits : BitVec 52} {k : BitVec 4} {a : Addr} {d : Word} (ma ba : Addr) (md bd : Word)
    (h1 : mask = 15#4 ++ ma ++ md) (h2 : bits = k ++ ba ++ bd) (hk : t.extractLsb' 48 4 = k)
    (ha : t.extractLsb' 16 32 = a) (hd : t.extractLsb' 0 16 = d) :
    (t &&& mask = bits) = (a &&& ma = ba ∧ d &&& md = bd) := by
  subst h1 h2
  obtain ⟨m1, m2, m3⟩ := fields_of_append 15#4 ma md
  obtain ⟨b1, b2, b3⟩ := fields_of_append k ba bd
  rw [word52_eq_iff, extractLsb'_and52, extractLsb'_and52, extractLsb'_and52, m1, m2, m3, b1, b2, b3, hk, ha, hd]
  have : k &&& 15#4 = k := BitVec.and_allOnes
  simp [this]

theorem selectRow_append_of_left_none (l₁ l₂ : List TableRow) (t : BitVec 52) (h : selectRow l₁ t = none) :
    selectRow (l₁ ++ l₂) t = selectRow l₂ t := by
  induction l₁ with
  | nil => rfl
  | cons r l₁ ih =>
    simp only [selectRow, List.cons_append] at h ⊢
    split at h
    · split at h
      · split at h <;> cases h
      · cases h
    · rename_i hn
      rw [if_neg hn]
      exact ih h

theorem selectRow_append_of_right_none (l₁ l₂ : List TableRow) (t : BitVec 52) (h : selectRow l₂ t = none) :
    selectRow (l₁ ++ l₂) t = selectRow l₁ t := by
  induction l₁ with
  | nil => exact h
  | cons r l₁ ih => simp only [selectRow, List.cons_append, ih]

/-- Rows of one op code select nothing for a word of another. -/
theorem selectRow_none_of_opCode (l : List TableRow) (t : BitVec 52) (k : BitVec 4)
    (hl : ∀ r ∈ l, r.mask.extractLsb' 48 4 = 15#4 ∧ r.bits.extractLsb' 48 4 = k) (ht : t.extractLsb' 48 4 ≠ k) :
    selectRow l t = none := by
  induction l with
  | nil => rfl
  | cons r l ih =>
    rw [selectRow, if_neg, ih fun q hq => hl q (by simp [hq])]
    intro h
    have h := congrArg (fun z => z.extractLsb' 48 4) h
    simp only [extractLsb'_and52, (hl r (by simp)).1, (hl r (by simp)).2] at h
    exact ht (h ▸ (BitVec.and_allOnes (x := t.extractLsb' 48 4)).symm)

end Sys2Proof.Machine
end

