-- ==== Sys2Proof/Laws/Operands.lean ====
section
/-! SUPPORT. The byte lanes: what each lane of a joined word and of a written reload value reads as. -/

namespace Sys2Proof.Machine

@[simp] theorem hiByte_joinBytes (hi lo : Byte) : hiByte (joinBytes hi lo) = hi := by
  ext i hi'
  simp only [hiByte, joinBytes, BitVec.getElem_extractLsb', BitVec.getLsbD_append]
  simp [hi', BitVec.getLsbD_eq_getElem]

@[simp] theorem loByte_joinBytes (hi lo : Byte) : loByte (joinBytes hi lo) = lo := by
  ext i hi'
  simp only [loByte, joinBytes, BitVec.getElem_extractLsb', BitVec.getLsbD_append]
  simp [hi', BitVec.getLsbD_eq_getElem]

@[simp] theorem joinBytes_lanes (w : Word) : joinBytes (hiByte w) (loByte w) = w := by
  unfold joinBytes hiByte loByte
  ext i hi'
  simp only [BitVec.getElem_append, BitVec.getElem_extractLsb']
  split
  · simp [BitVec.getLsbD_eq_getElem, hi']
  · rw [show 8 + (i - 8) = i by omega]
    simp [BitVec.getLsbD_eq_getElem, hi']

section
variable (r : Reload) (v : Byte)

@[simp] theorem reloadWithHigh_high : (reloadWithHigh r v).extractLsb' 16 8 = v := by
  apply BitVec.eq_of_getLsbD_eq
  intro i hi
  simp only [reloadWithHigh, BitVec.getLsbD_append, BitVec.getLsbD_extractLsb']
  simp [hi, show ¬ 16 + i < 16 by omega, show 16 + i - 16 = i by omega]

@[simp] theorem reloadWithHigh_mid : (reloadWithHigh r v).extractLsb' 8 8 = r.extractLsb' 8 8 := by
  apply BitVec.eq_of_getLsbD_eq
  intro i hi
  simp only [reloadWithHigh, BitVec.getLsbD_append, BitVec.getLsbD_extractLsb']
  simp [hi, show 8 + i < 16 by omega]

@[simp] theorem reloadWithHigh_low : (reloadWithHigh r v).extractLsb' 0 8 = r.extractLsb' 0 8 := by
  apply BitVec.eq_of_getLsbD_eq
  intro i hi
  simp only [reloadWithHigh, BitVec.getLsbD_append, BitVec.getLsbD_extractLsb']
  simp [hi, show i < 16 by omega]

@[simp] theorem reloadWithMid_high : (reloadWithMid r v).extractLsb' 16 8 = r.extractLsb' 16 8 := by
  apply BitVec.eq_of_getLsbD_eq
  intro i hi
  simp only [reloadWithMid, BitVec.getLsbD_append, BitVec.getLsbD_extractLsb']
  simp [hi, show ¬ 16 + i < 8 by omega, show ¬ 16 + i - 8 < 8 by omega, show 16 + i - 8 - 8 = i by omega]

@[simp] theorem reloadWithMid_mid : (reloadWithMid r v).extractLsb' 8 8 = v := by
  apply BitVec.eq_of_getLsbD_eq
  intro i hi
  simp only [reloadWithMid, BitVec.getLsbD_append, BitVec.getLsbD_extractLsb']
  simp [hi, show ¬ 8 + i < 8 by omega, show 8 + i - 8 = i by omega]

@[simp] theorem reloadWithMid_low : (reloadWithMid r v).extractLsb' 0 8 = r.extractLsb' 0 8 := by
  apply BitVec.eq_of_getLsbD_eq
  intro i hi
  simp only [reloadWithMid, BitVec.getLsbD_append, BitVec.getLsbD_extractLsb']
  simp [hi]

@[simp] theorem reloadWithLow_high : (reloadWithLow r v).extractLsb' 16 8 = r.extractLsb' 16 8 := by
  apply BitVec.eq_of_getLsbD_eq
  intro i hi
  simp only [reloadWithLow, BitVec.getLsbD_append, BitVec.getLsbD_extractLsb']
  simp [hi, show ¬ 16 + i < 8 by omega, show 16 + i - 8 < 16 by omega, show 8 + (16 + i - 8) = 16 + i by omega]

@[simp] theorem reloadWithLow_mid : (reloadWithLow r v).extractLsb' 8 8 = r.extractLsb' 8 8 := by
  apply BitVec.eq_of_getLsbD_eq
  intro i hi
  simp only [reloadWithLow, BitVec.getLsbD_append, BitVec.getLsbD_extractLsb']
  simp [hi, show ¬ 8 + i < 8 by omega, show 8 + i - 8 = i by omega, show i < 16 by omega]

@[simp] theorem reloadWithLow_low : (reloadWithLow r v).extractLsb' 0 8 = v := by
  apply BitVec.eq_of_getLsbD_eq
  intro i hi
  simp only [reloadWithLow, BitVec.getLsbD_append, BitVec.getLsbD_extractLsb']
  simp [hi]

/-- A reload value is its three bytes. -/
theorem reload_eq_bytes : r = r.extractLsb' 16 8 ++ r.extractLsb' 8 8 ++ r.extractLsb' 0 8 := by
  apply BitVec.eq_of_getLsbD_eq
  intro i hi
  simp only [BitVec.getLsbD_append, BitVec.getLsbD_extractLsb']
  by_cases h1 : i < 8
  · simp [h1]
  by_cases h2 : i < 16
  · simp [h1, show i - 8 < 8 by omega, show 8 + (i - 8) = i by omega]
  · simp [h1, show ¬ i - 8 < 8 by omega, show i - 8 - 8 < 8 by omega, show 16 + (i - 8 - 8) = i by omega]

end

end Sys2Proof.Machine
end

