-- ==== Sys2Proof/Laws/PerInstr.lean ====
section
/-! SUPPORT. Per behaviour: under a well-formed configuration, a behaviour whose row's condition holds is the one its operation selects. -/

namespace Sys2Proof.Laws.Selects

/-- The decoder gives back a behaviour that satisfies its row's condition (30_encoding.md R88). -/
def Statement (i : Instr) : Prop :=
  ∀ cfg : Config, cfg.WellFormed → i.wellFormed cfg = true → decode cfg i.op = i

theorem rdbAciaSr (a : Addr) : Statement (.rdbAciaSr a) := fun cfg hc h => by
  simp only [Config.WellFormed, Config.rdAddrs, List.nodup_cons, List.mem_cons, not_or] at hc
  simp only [Instr.wellFormed, beq_iff_eq] at h
  simp_all [decode, Instr.op, decodeRdb]

theorem rdbAciaDr (a : Addr) : Statement (.rdbAciaDr a) := fun cfg hc h => by
  simp only [Config.WellFormed, Config.rdAddrs, List.nodup_cons, List.mem_cons, not_or] at hc
  simp only [Instr.wellFormed, beq_iff_eq] at h
  simp_all [decode, Instr.op, decodeRdb, eq_comm]

theorem rdbTmrSr (a : Addr) : Statement (.rdbTmrSr a) := fun cfg hc h => by
  simp only [Config.WellFormed, Config.rdAddrs, List.nodup_cons, List.mem_cons, not_or] at hc
  simp only [Instr.wellFormed, beq_iff_eq] at h
  simp_all [decode, Instr.op, decodeRdb, eq_comm]

theorem rdbMem (a : Addr) : Statement (.rdbMem a) := fun cfg hc h => by
  simp only [Config.WellFormed, Config.rdAddrs, List.nodup_cons, List.mem_cons, not_or] at hc
  simp only [Instr.wellFormed, decide_eq_true_eq, Config.rdAddrs, List.mem_cons, not_or] at h
  simp_all [decode, Instr.op, decodeRdb]

theorem wrbAciaDr (a : Addr) (v : Byte) : Statement (.wrbAciaDr a v) := fun cfg hc h => by
  simp only [Config.WellFormed, Config.wrAddrs, List.nodup_cons, List.mem_cons, not_or] at hc
  simp only [Instr.wellFormed, beq_iff_eq] at h
  simp_all [decode, Instr.op, decodeWrb]

theorem wrbAciaCr (a : Addr) (v : Byte) : Statement (.wrbAciaCr a v) := fun cfg hc h => by
  simp only [Config.WellFormed, Config.wrAddrs, List.nodup_cons, List.mem_cons, not_or] at hc
  simp only [Instr.wellFormed, beq_iff_eq] at h
  simp_all [decode, Instr.op, decodeWrb, eq_comm]

theorem wrbTmrRh (a : Addr) (v : Byte) : Statement (.wrbTmrRh a v) := fun cfg hc h => by
  simp only [Config.WellFormed, Config.wrAddrs, List.nodup_cons, List.mem_cons, not_or] at hc
  simp only [Instr.wellFormed, beq_iff_eq] at h
  simp_all [decode, Instr.op, decodeWrb, eq_comm]

theorem wrbTmrRm (a : Addr) (v : Byte) : Statement (.wrbTmrRm a v) := fun cfg hc h => by
  simp only [Config.WellFormed, Config.wrAddrs, List.nodup_cons, List.mem_cons, not_or] at hc
  simp only [Instr.wellFormed, beq_iff_eq] at h
  simp_all [decode, Instr.op, decodeWrb, eq_comm]

theorem wrbTmrRl (a : Addr) (v : Byte) : Statement (.wrbTmrRl a v) := fun cfg hc h => by
  simp only [Config.WellFormed, Config.wrAddrs, List.nodup_cons, List.mem_cons, not_or] at hc
  simp only [Instr.wellFormed, beq_iff_eq] at h
  simp_all [decode, Instr.op, decodeWrb, eq_comm]

theorem wrbTmrCr (a : Addr) (v : Byte) : Statement (.wrbTmrCr a v) := fun cfg hc h => by
  simp only [Config.WellFormed, Config.wrAddrs, List.nodup_cons, List.mem_cons, not_or] at hc
  simp only [Instr.wellFormed, beq_iff_eq] at h
  simp_all [decode, Instr.op, decodeWrb, eq_comm]

theorem wrbTmrSr (a : Addr) (v : Byte) : Statement (.wrbTmrSr a v) := fun cfg hc h => by
  simp only [Config.WellFormed, Config.wrAddrs, List.nodup_cons, List.mem_cons, not_or] at hc
  simp only [Instr.wellFormed, beq_iff_eq] at h
  simp_all [decode, Instr.op, decodeWrb, eq_comm]

theorem wrbMem (a : Addr) (v : Byte) : Statement (.wrbMem a v) := fun cfg hc h => by
  simp only [Config.WellFormed, Config.wrAddrs, List.nodup_cons, List.mem_cons, not_or] at hc
  simp only [Instr.wellFormed, decide_eq_true_eq, Config.wrAddrs, List.mem_cons, not_or] at h
  simp_all [decode, Instr.op, decodeWrb]

theorem rdwDev (a : Addr) : Statement (.rdwDev a) := fun cfg hc h => by
  simp only [Instr.wellFormed, decide_eq_true_eq] at h
  simp [decode, Instr.op, decodeRdw, h]

theorem rdwMem (a : Addr) : Statement (.rdwMem a) := fun cfg hc h => by
  simp only [Instr.wellFormed, decide_eq_true_eq] at h
  simp [decode, Instr.op, decodeRdw, h]

theorem wrwDev (a : Addr) (w : Word) : Statement (.wrwDev a w) := fun cfg hc h => by
  simp only [Instr.wellFormed, decide_eq_true_eq] at h
  simp [decode, Instr.op, decodeWrw, h]

theorem wrwMem (a : Addr) (w : Word) : Statement (.wrwMem a w) := fun cfg hc h => by
  simp only [Instr.wellFormed, decide_eq_true_eq] at h
  simp [decode, Instr.op, decodeWrw, h]

theorem peekwBoot (slot : BootSlot) : Statement (.peekwBoot slot) := fun cfg _ _ => by
  have h : BootSlot.ofAddr? slot.addr = some slot := BootSlot.ofAddr?_eq_some.mpr rfl
  simp [decode, Instr.op, decodePeekw, h]

theorem peekwDev (a : Addr) : Statement (.peekwDev a) := fun cfg hc h => by
  simp only [Instr.wellFormed, Bool.and_eq_true, decide_eq_true_eq] at h
  simp [decode, Instr.op, decodePeekw, BootSlot.ofAddr?_eq_none.mpr h.2, h.1]

theorem peekwMem (a : Addr) : Statement (.peekwMem a) := fun cfg hc h => by
  simp only [Instr.wellFormed, Bool.and_eq_true, decide_eq_true_eq] at h
  simp [decode, Instr.op, decodePeekw, BootSlot.ofAddr?_eq_none.mpr h.2, h.1]

theorem sync (n : Nat) : Statement (.sync n) := fun _ _ _ => rfl

end Sys2Proof.Laws.Selects
end

