-- ==== Sys2Proof/Laws/Width32.lean ====
section
/-! SUPPORT. 32-bit arithmetic that stays in range is exact, and each step of cycle-sync with it. -/

namespace Sys2Proof.Machine

/-- A value in range survives being held in 32 bits. -/
theorem toInt_ofInt32 {x : Int} (h : inRange32 x) : (BitVec.ofInt 32 x).toInt = x := by
  rw [BitVec.toInt_ofInt]
  exact Int.bmod_eq_of_le (by omega) (by omega)

theorem ofInt_sub32 (x y : Int) : BitVec.ofInt 32 (x - y) = BitVec.ofInt 32 x - BitVec.ofInt 32 y := by
  rw [Int.sub_eq_add_neg, BitVec.ofInt_add, BitVec.ofInt_neg, BitVec.sub_eq_add_neg]

/-- Step (a) on 32 bits is step (a), held in 32 bits. -/
theorem countCycles32_ofInt (e : Bool) {p : Int} (n : Nat) (hp : inRange32 p) :
    countCycles32 e (BitVec.ofInt 32 p) n = BitVec.ofInt 32 (countCycles e p n) := by
  unfold countCycles32 countCycles
  rw [toInt_ofInt32 hp]
  split
  · rw [ofInt_sub32, BitVec.ofInt_natCast]
  · rfl

/-- Step (b) on 32 bits is step (b), for the prescaler. -/
theorem tickPrescaler32_ofInt {p : Int} (hp : inRange32 p) :
    tickPrescaler32 (BitVec.ofInt 32 p) = BitVec.ofInt 32 (tickPrescaler p) := by
  unfold tickPrescaler32 tickPrescaler
  rw [toInt_ofInt32 hp]
  split
  · rw [BitVec.ofInt_add]
  · rfl

/-- Step (b) on 32 bits is step (b), for the counter. -/
theorem tickCounter32_ofInt {p : Int} (c : Int) (hp : inRange32 p) :
    tickCounter32 (BitVec.ofInt 32 p) (BitVec.ofInt 32 c) = BitVec.ofInt 32 (tickCounter p c) := by
  unfold tickCounter32 tickCounter
  rw [toInt_ofInt32 hp]
  split
  · rw [ofInt_sub32]; rfl
  · rfl

/-- A reload value is the same number in 32 bits, where it is never negative. -/
theorem toInt_reload32 (r : Reload) : (r.setWidth 32).toInt = r.toNat := by
  have := r.isLt
  rw [BitVec.toInt_eq_toNat_of_lt (by rw [BitVec.toNat_setWidth]; omega), BitVec.toNat_setWidth,
    Nat.mod_eq_of_lt (by omega)]

end Sys2Proof.Machine
end

