-- ==== Sys2Proof/Machine/Notation.lean ====
section
/-! DEFINITION. The spec's own notation of a trace (30_encoding.md R96, R97): one line, an operation or a pseudo-operation, with the outcome it may state. -/

namespace Sys2Proof.Machine

/-- What a line may state after `->` (30_encoding.md R96). -/
inductive Stated where
  | value (v : Nat)
  | fatal (code : FatalCode)
deriving DecidableEq, Repr

/-- One line of a trace: its operations (one, or a pseudo-operation's expansion) and what it states. -/
structure TraceLine where
  ops : List Op
  stated : Option Stated
deriving DecidableEq, Repr

/-- The value of a run of decimal digits read on top of `acc`. -/
def decimalDigits : Nat → List Char → Option Nat
  | acc, [] => some acc
  | acc, c :: cs => if '0' ≤ c ∧ c ≤ '9' then decimalDigits (10 * acc + (c.toNat - '0'.toNat)) cs else none

/-- A number: `0x` prefixes hexadecimal, everything else is decimal (00_scope.md R12). -/
def numberToken : List Char → Option Nat
  | [] => none
  | '0' :: 'x' :: cs => hexToken cs
  | cs => decimalDigits 0 cs

/-- The numbers of a list of tokens, if each is one. -/
def numberTokens : List (List Char) → Option (List Nat)
  | [] => some []
  | t :: ts =>
    match numberToken t, numberTokens ts with
    | some v, some vs => some (v :: vs)
    | _, _ => none

/-- A value as a bit vector of a width it fits; operand types are exact (30_encoding.md R82). -/
def ofWidth (n v : Nat) : Option (BitVec n) := if v < 2 ^ n then some (BitVec.ofNat n v) else none

/-- A format A operation (30_encoding.md R81). -/
def lineA (f : Addr → Op) : List Nat → Option (List Op)
  | [a] => (ofWidth 32 a).map (fun a => [f a])
  | _ => none

/-- A format AD operation (30_encoding.md R81). -/
def lineAD (n : Nat) (f : Addr → BitVec n → Op) : List Nat → Option (List Op)
  | [a, v] =>
    match ofWidth 32 a, ofWidth n v with
    | some a, some v => some [f a v]
    | _, _ => none
  | _ => none

/-- A line with one number of a width. -/
def lineOne (n : Nat) (f : BitVec n → List Op) : List Nat → Option (List Op)
  | [v] => (ofWidth n v).map f
  | _ => none

/-- A line with one natural number. -/
def lineNat (f : Nat → List Op) : List Nat → Option (List Op)
  | [n] => some (f n)
  | _ => none

/-- A line without operands. -/
def lineNone (ops : List Op) : List Nat → Option (List Op)
  | [] => some ops
  | _ => none

/-- The operations of a mnemonic of 30_encoding.md R80, or of a pseudo-operation of R97, with its operands.
`STEP` spans several lines and is `stepOps`. -/
def lineOps (cfg : Config) (name : List Char) (xs : List Nat) : Option (List Op) :=
  if name = "RDB".toList then lineA .rdb xs
  else if name = "RDW".toList then lineA .rdw xs
  else if name = "WRB".toList then lineAD 8 .wrb xs
  else if name = "WRW".toList then lineAD 16 .wrw xs
  else if name = "PEEKW".toList then lineA .peekw xs
  else if name = "SYNC".toList then lineNat (fun n => [.sync n]) xs
  else if name = "SYNC1".toList then lineNat sync1 xs
  else if name = "TMR_LOAD".toList then lineOne 24 (tmrLoad cfg) xs
  else if name = "TMR_ON".toList then lineNone (tmrOn cfg) xs
  else if name = "TMR_OFF".toList then lineNone (tmrOff cfg) xs
  else if name = "TMR_ACK".toList then lineNone (tmrAck cfg) xs
  else if name = "PUTC".toList then lineOne 8 (putc cfg) xs
  else none

/-- The codes of 60_exceptions.md R176 by name. -/
def codeNames : List (List Char × FatalCode) :=
  [("fatal(F_ACIA_DATA_READ)".toList, .F_ACIA_DATA_READ),
   ("fatal(F_WORD_READ_DEVICE)".toList, .F_WORD_READ_DEVICE),
   ("fatal(F_WORD_WRITE_DEVICE)".toList, .F_WORD_WRITE_DEVICE),
   ("fatal(F_PEEK_DEVICE)".toList, .F_PEEK_DEVICE)]

/-- What stands after `->`: a value, or a fatal code (30_encoding.md R96). -/
def statedToken (cs : List Char) : Option Stated :=
  match numberToken cs with
  | some v => some (.value v)
  | none => (codeNames.find? (fun p => p.1 = cs)).map (fun p => .fatal p.2)

/-- The text before a `;` (30_encoding.md R96). -/
def dropLineComment : List Char → List Char
  | [] => []
  | c :: cs => if c = ';' then [] else c :: dropLineComment cs

/-- The tokens of a line; a comma separates operands (30_encoding.md R96). -/
def traceTokens (line : List Char) : List (List Char) :=
  (splitAtChars (fun c => c = ' ' ∨ c = ',') (dropLineComment line)).filter (· ≠ [])

/-- Cut a list of tokens at `->`. -/
def cutAtArrow : List (List Char) → List (List Char) × List (List Char)
  | [] => ([], [])
  | t :: ts => if t = ['-', '>'] then ([], ts) else (t :: (cutAtArrow ts).1, (cutAtArrow ts).2)

/-- Read one line of a trace (30_encoding.md R96, R97); none where it is not in the notation.  A blank line or a
comment has no operation.  (That any run of blanks and commas separates: DESIGN CHOICE, log entry 13.) -/
def readLine (cfg : Config) (line : List Char) : Option TraceLine :=
  match cutAtArrow (traceTokens line) with
  | ([], []) => some ⟨[], none⟩
  | ([], _ :: _) => none
  | (name :: args, rest) =>
    match numberTokens args with
    | none => none
    | some xs =>
      match lineOps cfg name xs, rest with
      | some ops, [] => some ⟨ops, none⟩
      | some ops, [r] => (statedToken r).map (fun e => ⟨ops, some e⟩)
      | _, _ => none

/-- A read result as a number. -/
def ReadResult.toNat : ReadResult → Nat
  | .byte v => v.toNat
  | .word w => w.toNat

/-- Whether a run from `s` that ended in `t` is what its line states (30_encoding.md R96). -/
def Stated.holds (s t : State) : Option Stated → Bool
  | none => true
  | some (.value v) => !t.halted && decide ((t.results.drop s.results.length).map ReadResult.toNat = [v])
  | some (.fatal c) => t.halted && decide (t.fatal.map (·.code) = some c)

end Sys2Proof.Machine
end

