-- ==== Sys2Proof/Tests/Slice0.lean ====
section
/-! SUPPORT. The model's own tests. Expected values come from spec/95_test_vectors.md, by the vector named, or by hand from the rule named; then the ill-formed terms, and a witness for the hypotheses of each statement. -/

namespace Sys2Proof.Tests

open Sys2Proof.Machine

/-- Whether an outcome is a next state that a check holds of. -/
def nextAnd (o : Host.Outcome State Fault Refusal) (p : State → Bool) : Bool :=
  match o with
  | .next t => p t
  | .fault _ => false
  | .refused _ => false

abbrev ref : Config := Config.CFG_REF

/-- An enabled timer with the given counts and reload value. -/
def timer (p c : Int) (r : Reload) : State := { State.reset with tmr_enabled := true, prescaler := p, counter := c, reload := r }

/-- A disabled timer with the given counts and reload value. -/
def stopped (p c : Int) (r : Reload) : State := { timer p c r with tmr_enabled := false }

/-- Power-on with a few image bytes set. -/
def withImg (m : Memory) : State := { State.reset with img := m }

/-! Decoding: words of 95_test_vectors.md, one of each operation and more. -/

/-- P1. -/
theorem test_decode_wrb_acia_cr : decodeTableWord 52 0x2000100400003 = some (.wrbAciaCr 0x10040 0x03) := by decide
/-- P1. -/
theorem test_decode_rdb_acia_sr : decodeTableWord 52 0x0000100400000 = some (.rdbAciaSr 0x10040) := by decide
/-- P1. -/
theorem test_decode_wrb_acia_dr : decodeTableWord 52 0x2000100420048 = some (.wrbAciaDr 0x10042 0x48) := by decide
/-- X2 with R83: op 0, address 0x10042. -/
theorem test_decode_rdb_acia_dr : decodeTableWord 52 0x0000100420000 = some (.rdbAciaDr 0x10042) := by decide
/-- P3. -/
theorem test_decode_rdb_tmr_sr : decodeTableWord 52 0x0000100350000 = some (.rdbTmrSr 0x10035) := by decide
/-- P3. -/
theorem test_decode_rdb_mem : decodeTableWord 52 0x0000020010000 = some (.rdbMem 0x2001) := by decide
/-- P5. -/
theorem test_decode_wrb_tmr_rh : decodeTableWord 52 0x2000100270001 = some (.wrbTmrRh 0x10027 0x01) := by decide
/-- P5. -/
theorem test_decode_wrb_tmr_rm : decodeTableWord 52 0x2000100290002 = some (.wrbTmrRm 0x10029 0x02) := by decide
/-- P5. -/
theorem test_decode_wrb_tmr_rl : decodeTableWord 52 0x20001002B0003 = some (.wrbTmrRl 0x1002B 0x03) := by decide
/-- P5. -/
theorem test_decode_wrb_tmr_cr : decodeTableWord 52 0x2000100210020 = some (.wrbTmrCr 0x10021 0x20) := by decide
/-- P2. -/
theorem test_decode_wrb_tmr_sr : decodeTableWord 52 0x2000100350001 = some (.wrbTmrSr 0x10035 0x01) := by decide
/-- M7 with R83: the alias 0x42 is plain memory. -/
theorem test_decode_wrb_mem_alias : decodeTableWord 52 0x2000000420041 = some (.wrbMem 0x42 0x41) := by decide
/-- M9 with R83: op 1, address 0x10040. -/
theorem test_decode_rdw_dev : decodeTableWord 52 0x1000100400000 = some (.rdwDev 0x10040) := by decide
/-- P3. -/
theorem test_decode_rdw_mem : decodeTableWord 52 0x10001FFFF0000 = some (.rdwMem 0x1FFFF) := by decide
/-- P3. -/
theorem test_decode_wrw_dev : decodeTableWord 52 0x30001002B0001 = some (.wrwDev 0x1002B 0x0001) := by decide
/-- P3: the word just below a port. -/
theorem test_decode_wrw_mem : decodeTableWord 52 0x300010034AA55 = some (.wrwMem 0x10034 0xAA55) := by decide
/-- P4. -/
theorem test_decode_peekw_boot : decodeTableWord 52 0x4000000060000 = some (.peekwBoot .at6) := by decide
/-- M9 with R83: op 4, address 0x10035. -/
theorem test_decode_peekw_dev : decodeTableWord 52 0x4000100350000 = some (.peekwDev 0x10035) := by decide
/-- P4. -/
theorem test_decode_peekw_mem : decodeTableWord 52 0x4000016000000 = some (.peekwMem 0x1600) := by decide
/-- P2. -/
theorem test_decode_sync : decodeTableWord 52 0x50000000C0000 = some (.sync 12) := by decide
/-- R83, R84: words that spell no operation, each by its reason. -/
theorem test_unpack_refuses_by_name :
    unpack 0x6000000000000 = .error .noSuchOpCode ∧ unpack 0x2000100400115 = .error .byteTooWide ∧
    unpack 0x1000016000001 = .error .dataNotZero ∧ unpack 0x10000000000000 = .error .tooWide := by decide
/-- P3: the encoder gives the word back. -/
theorem test_encode_wrw : encode (.wrwMem 0xFFFF 0xBEEF) = some 0x30000FFFFBEEF := by decide
/-- P1. -/
theorem test_encode_wrb : encode (.wrbAciaDr 0x10042 0x69) = some 0x2000100420069 := by decide
/-- S6: with A_ACIA_CR_WR moved, the old address is plain memory to a byte write, the new one a device to a word read. -/
theorem test_decode_other_config :
    decode { ref with A_ACIA_CR_WR := 0x10044 } (.wrb 0x10040 0x15) = .wrbMem 0x10040 0x15 ∧
    decode { ref with A_ACIA_CR_WR := 0x10044 } (.rdw 0x10044) = .rdwDev 0x10044 := by decide
/-- M8: a byte read at a write-only port is plain memory. -/
theorem test_decode_unbound_direction : decode ref (.rdb 0x10027) = .rdbMem 0x10027 := by decide
/-- R90: a port at a bootstrap address does not make the peek fatal. -/
theorem test_decode_boot_first : decode { ref with A_TMR_CR_WR := 4 } (.peekw 4) = .peekwBoot .at4 := by decide
/-- R99: the table's row for SYNC. -/
theorem test_table_selects_sync : (selectRow opcodeTable 0x50000000C0000).map (·.behaviour) = some 20 := by decide
/-- R99: the bootstrap row wins over the memory row. -/
theorem test_table_priority : (selectRow opcodeTable 0x4000000000000).map (·.behaviour) = some 17 := by decide

/-! The WellFormed smoke: an ill-formed term for each check. -/

theorem smoke_config_read_side : ¬ { ref with A_ACIA_DR_RD := 0x10040 }.WellFormed := by decide
theorem smoke_config_write_side : ¬ { ref with A_TMR_CR_WR := 0x10027 }.WellFormed := by decide
theorem smoke_config_ref : ref.WellFormed := by decide
theorem smoke_rdbAciaSr : Instr.wellFormed ref (.rdbAciaSr 0x40) = false := by decide
theorem smoke_rdbAciaDr : Instr.wellFormed ref (.rdbAciaDr 0x10040) = false := by decide
theorem smoke_rdbTmrSr : Instr.wellFormed ref (.rdbTmrSr 0x10034) = false := by decide
theorem smoke_rdbMem : Instr.wellFormed ref (.rdbMem 0x10035) = false := by decide
theorem smoke_wrbAciaDr : Instr.wellFormed ref (.wrbAciaDr 0x10040 0) = false := by decide
theorem smoke_wrbAciaCr : Instr.wellFormed ref (.wrbAciaCr 0x10042 0) = false := by decide
theorem smoke_wrbTmrRh : Instr.wellFormed ref (.wrbTmrRh 0x10029 0) = false := by decide
theorem smoke_wrbTmrRm : Instr.wellFormed ref (.wrbTmrRm 0x10027 0) = false := by decide
theorem smoke_wrbTmrRl : Instr.wellFormed ref (.wrbTmrRl 0x10027 0) = false := by decide
theorem smoke_wrbTmrCr : Instr.wellFormed ref (.wrbTmrCr 0x10035 0) = false := by decide
theorem smoke_wrbTmrSr : Instr.wellFormed ref (.wrbTmrSr 0x10021 0) = false := by decide
theorem smoke_wrbMem : Instr.wellFormed ref (.wrbMem 0x10021 0) = false := by decide
theorem smoke_rdwDev : Instr.wellFormed ref (.rdwDev 0x2000) = false := by decide
theorem smoke_rdwMem : Instr.wellFormed ref (.rdwMem 0x10040) = false := by decide
theorem smoke_wrwDev : Instr.wellFormed ref (.wrwDev 0x1003F 0) = false := by decide
theorem smoke_wrwMem : Instr.wellFormed ref (.wrwMem 0x1002B 0) = false := by decide
theorem smoke_peekwDev_no_device : Instr.wellFormed ref (.peekwDev 0x1600) = false := by decide
theorem smoke_peekwDev_boot : Instr.wellFormed { ref with A_TMR_CR_WR := 4 } (.peekwDev 4) = false := by decide
theorem smoke_peekwMem_device : Instr.wellFormed ref (.peekwMem 0x10035) = false := by decide
theorem smoke_peekwMem_boot : Instr.wellFormed ref (.peekwMem 6) = false := by decide

/-! One step of each behaviour. -/

/-- S1. -/
theorem test_rdbAciaSr : nextAnd (exec (.rdbAciaSr 0x10040) (withImg [(0x40, 0xFF)]))
    (fun t => t.results == [.byte 0x02]) = true := by decide
/-- S4. -/
theorem test_rdbAciaDr : nextAnd (exec (.rdbAciaDr 0x10042) { State.reset with acia_enabled := true })
    (fun t => t.halted && t.acia_enabled && t.tx == [] && t.fatal == some ⟨.F_ACIA_DATA_READ, 0x10042, none⟩) = true := by decide
/-- T4. -/
theorem test_rdbTmrSr : nextAnd (exec (.rdbTmrSr 0x10035) (withImg [(0x35, 0x81)]))
    (fun t => t.results == [.byte 0x81]) = true := by decide
/-- M2: the byte at 0 is read at 0xFFFF0000. -/
theorem test_rdbMem : nextAnd (exec (.rdbMem 0xFFFF0000) (withImg [(0, 0xAB)]))
    (fun t => t.results == [.byte 0xAB]) = true := by decide
/-- U3 with true: the byte read of a reload port halts. -/
theorem test_rdbMem_unbound : nextAnd (exec (.rdbMem 0x10027) { State.reset with cfg := { ref with UNBOUND_DIR_FATAL := true } })
    (fun t => t.halted && t.results == []) = true := by decide
/-- S3: 0x0A after 0xFF, while the serial enable is false. -/
theorem test_wrbAciaDr : nextAnd (exec (.wrbAciaDr 0x10042 0x0A) { State.reset with tx := [0x00, 0xFF] })
    (fun t => t.tx == [0x00, 0xFF, 0x0A] && !t.acia_enabled) = true := by decide
/-- S2: 0x95 differs from the magic value in one bit. -/
theorem test_wrbAciaCr_other : nextAnd (exec (.wrbAciaCr 0x10040 0x95) { State.reset with acia_enabled := true })
    (fun t => !t.acia_enabled) = true := by decide
/-- S2. -/
theorem test_wrbAciaCr_magic : nextAnd (exec (.wrbAciaCr 0x10040 0x15) State.reset) (fun t => t.acia_enabled) = true := by decide
/-- T1: 0x0000CC, then the high byte 0xAA. -/
theorem test_wrbTmrRh : nextAnd (exec (.wrbTmrRh 0x10027 0xAA) { State.reset with reload := 0x0000CC })
    (fun t => t.reload == 0xAA00CC && t.counter == 0) = true := by decide
/-- T1: 0xAA00CC, then the mid byte 0xBB. -/
theorem test_wrbTmrRm : nextAnd (exec (.wrbTmrRm 0x10029 0xBB) { State.reset with reload := 0xAA00CC })
    (fun t => t.reload == 0xAABBCC) = true := by decide
/-- L1-3: 0x010203, then the low byte 0xFF. -/
theorem test_wrbTmrRl : nextAnd (exec (.wrbTmrRl 0x1002B 0xFF) { State.reset with reload := 0x010203 })
    (fun t => t.reload == 0x0102FF) = true := by decide
/-- T2: 0xA0 enables. -/
theorem test_wrbTmrCr_on : nextAnd (exec (.wrbTmrCr 0x10021 0xA0) State.reset) (fun t => t.tmr_enabled) = true := by decide
/-- T2 and X4: 0xDF disables and leaves level 5 standing. -/
theorem test_wrbTmrCr_off : nextAnd (exec (.wrbTmrCr 0x10021 0xDF) { timer 0 1 0 with ipl := 5, ipl_events := [5] })
    (fun t => !t.tmr_enabled && t.ipl == 5 && t.ipl_events == [5]) = true := by decide
/-- T3. -/
theorem test_wrbTmrSr_one : nextAnd (exec (.wrbTmrSr 0x10035 0x01) { State.reset with ipl := 5, ipl_events := [5] })
    (fun t => t.ipl == 0 && t.ipl_events == [5, 0] && t.img == []) = true := by decide
/-- T3: 0x03 does nothing. -/
theorem test_wrbTmrSr_other : nextAnd (exec (.wrbTmrSr 0x10035 0x03) { State.reset with ipl := 5, ipl_events := [5] })
    (fun t => t.ipl == 5 && t.ipl_events == [5]) = true := by decide
/-- L1-1: the byte at 0x10000 lands at index 0. -/
theorem test_wrbMem : nextAnd (exec (.wrbMem 0x10000 0xAB) (withImg [(1, 0x11)]))
    (fun t => t.img == [(0, 0xAB), (1, 0x11)]) = true := by decide
/-- The canonical form: writing 0x00 removes the cell (20_memory.md R54 on a zeroed image). -/
theorem test_wrbMem_zero : nextAnd (exec (.wrbMem 0x2000 0x00) (withImg [(0x1FFF, 1), (0x2000, 2), (0x2001, 3)]))
    (fun t => t.img == [(0x1FFF, 1), (0x2001, 3)]) = true := by decide
/-- M9. -/
theorem test_rdwDev : nextAnd (exec (.rdwDev 0x10021) State.reset)
    (fun t => t.halted && t.fatal == some ⟨.F_WORD_READ_DEVICE, 0x10021, none⟩) = true := by decide
/-- M3: the low byte wraps to index 0. -/
theorem test_rdwMem : nextAnd (exec (.rdwMem 0x1FFFF) (withImg [(0, 0xEF), (0xFFFF, 0xBE)]))
    (fun t => t.results == [.word 0xBEEF]) = true := by decide
/-- X1: the refused store writes nothing. -/
theorem test_wrwDev : nextAnd (exec (.wrwDev 0x10029 0x2233) (withImg [(0x2000, 0x11)]))
    (fun t => t.halted && t.reload == 0 && t.img == [(0x2000, 0x11)] &&
      t.fatal == some ⟨.F_WORD_WRITE_DEVICE, 0x10029, some 0x2233⟩) = true := by decide
/-- M4: a word at the top of the bus space. -/
theorem test_wrwMem : nextAnd (exec (.wrwMem 0xFFFFFFFF 0x1234) State.reset)
    (fun t => t.img == [(0, 0x34), (0xFFFF, 0x12)]) = true := by decide
/-- M11: START_PC, whatever the image holds. -/
theorem test_peekwBoot : nextAnd (exec (.peekwBoot .at6) (withImg [(6, 0xDE), (7, 0xAD)]))
    (fun t => t.results == [.word 0x1600]) = true := by decide
/-- M9. -/
theorem test_peekwDev : nextAnd (exec (.peekwDev 0x1002B) State.reset)
    (fun t => t.halted && t.fatal == some ⟨.F_PEEK_DEVICE, 0x1002B, none⟩) = true := by decide
/-- M11: PEEKW 5 reads the image. -/
theorem test_peekwMem : nextAnd (exec (.peekwMem 5) (withImg [(5, 0x15), (6, 0x16)]))
    (fun t => t.results == [.word 0x1516]) = true := by decide
/-- Y1: a tick and a reload event in one `SYNC`. -/
theorem test_sync_reload : nextAnd (exec (.sync 4) (timer 0 1 3))
    (fun t => t.prescaler == 28 && t.counter == 3 && t.ipl == 5 && t.ipl_events == [5]) = true := by decide
/-- Y10, both readings: disabled with a negative prescaler. -/
theorem test_sync_disabled_deficit :
    nextAnd (exec (.sync 3) (stopped (-10) 5 7)) (fun t => t.prescaler == 22 && t.counter == 4 && t.ipl == 0) = true ∧
    nextAnd (exec (.sync 3) { stopped (-10) 5 7 with cfg := { ref with SYNC_GATE := .whole } })
      (fun t => t.prescaler == -10 && t.counter == 5) = true := by decide

/-- R167, by hand: at 31 the count 2^31 - 1 fits; at 0 the count 2^31 + 1 leaves the range and wraps to 2^31 - 1,
so that no tick happens. -/
theorem test_sync32 :
    nextAnd (exec32 (.sync 0x7FFFFFFF) (timer 31 5 7)) (fun t => t.prescaler == -2147483584 && t.counter == 4) = true ∧
    nextAnd (exec32 (.sync 0x80000001) (timer 0 5 7)) (fun t => t.prescaler == 2147483647 && t.counter == 5) = true :=
  ⟨by rfl, by rfl⟩

/-! One step of the machine. -/

/-- The first instruction after reset, from its packed word (P1). -/
theorem test_step_word : nextAnd (step (State.reset.withFetchWord 52 0x2000100420048))
    (fun t => t.tx == [0x48] && t.pending == [] && t.opsIssued == 1) = true := by decide
/-- R15: in a halted state nothing has an outcome. -/
theorem test_step_halted :
    step { State.reset with halted := true, pending := [.op (.sync 1)] } = .fault .halted := by rfl
/-- R83: a word that spells no operation. -/
theorem test_step_no_operation : step (State.reset.withFetchWord 52 0x6000000000000) =
    .refused (.notAnOperation .noSuchOpCode) := by rfl

/-! The host around the block. -/

/-- L1-7, its first record line, with an optional colon. -/
theorem test_line_record : lineMeaning ['1', '6', '0', '0', ':', ' ', '4', 'E', ' ', '7', '1'] =
    .record 0x1600 [0x4E, 0x71] := by decide
/-- L1-7, its comment line and its record without a colon, loaded into a zeroed image. -/
theorem test_load_text :
    loadText ['#', ' ', 'c', '\n', '1', '6', '0', '2', ' ', '4', 'E', ' ', '7', '5'] State.reset =
      some ⟨withImg [(0x1602, 0x4E), (0x1603, 0x75)], 2, true⟩ := by decide
/-- R211: a target beyond the image aborts the load, what was written stays. -/
theorem test_load_overflow : loadBytes 0xFFFF [0xAA, 0xBB] State.reset = ⟨withImg [(0xFFFF, 0xAA)], 1, false⟩ := by decide
/-- R211: a load aborted at the bounds never comes to the line after it, whose meaning is not in the source. -/
theorem test_load_abort_before_silent : loadText "FFFF: AA BB\n1600: 1FF".toList State.reset =
    some ⟨withImg [(0xFFFF, 0xAA)], 1, false⟩ := by decide
theorem test_load_silent : loadText "FFFF: AA\n1600: 1FF".toList State.reset = none := by decide
/-- Log entry 13: an address token with a prefix is no address. -/
theorem test_line_prefixed : lineMeaning "0x1600: 4E".toList = .skip := by decide
/-- R211, R217: a file that cannot be opened, and one that exceeds the image, start no run. -/
theorem test_hostRun_load_failed (cpu : State → CpuStep) :
    hostRun ref none [] cpu 5 = some (.loadFailed State.reset) ∧
    hostRun ref (some "FFFF: AA BB".toList) [] cpu 5 = some (.loadFailed (withImg [(0xFFFF, 0xAA)])) := ⟨rfl, rfl⟩
/-- X2. -/
theorem test_fatal_numbers :
    nextAnd (exec (decode ref (.rdb 0x10042)) State.reset) (fun t => t.fatalOutcome == some (1, 0x10042, none)) = true ∧
    nextAnd (exec (decode ref (.rdw 0x10042)) State.reset) (fun t => t.fatalOutcome == some (2, 0x10042, none)) = true ∧
    nextAnd (exec (decode ref (.wrw 0x10042 0)) State.reset) (fun t => t.fatalOutcome == some (3, 0x10042, some 0)) = true ∧
    nextAnd (exec (decode ref (.peekw 0x10042)) State.reset) (fun t => t.fatalOutcome == some (4, 0x10042, none)) = true := by
  decide
/-- R97: TMR_LOAD 0x010203. -/
theorem test_tmr_load : tmrLoad ref 0x010203 =
    [.wrb 0x10027 0x01, .wrb 0x10029 0x02, .wrb 0x1002B 0x03] := by decide

/-- R96: its own examples. -/
theorem test_readLine_wrb : readLine ref "WRB 0x00010042, 0x41 ; A".toList = some ⟨[.wrb 0x10042 0x41], none⟩ := by decide
theorem test_readLine_rdw : readLine ref "RDW 0x00001600 -> 0x4E71".toList =
    some ⟨[.rdw 0x1600], some (.value 0x4E71)⟩ := by decide
theorem test_readLine_fatal : readLine ref "RDW 0x00010040 -> fatal(F_WORD_READ_DEVICE)".toList =
    some ⟨[.rdw 0x10040], some (.fatal .F_WORD_READ_DEVICE)⟩ := by decide
/-- R82: a byte operand of nine bits is no `WRB`. -/
theorem test_readLine_too_wide : readLine ref "WRB 0x00010042, 0x141".toList = none := by decide

/-! Witnesses: for each statement with hypotheses, a state and operands that meet them together. -/

/-- A halted state as a fatal misuse leaves it. -/
def haltedState : State := { State.reset with halted := true, fatal := some ⟨.F_PEEK_DEVICE, 0x10035, none⟩ }

/-- The other setting of U3. -/
def unboundFatal : State := { State.reset with cfg := { ref with UNBOUND_DIR_FATAL := true } }

/-- The other setting of U4. -/
def wholeGate (s : State) : State := { s with cfg := { s.cfg with SYNC_GATE := .whole } }

theorem witness_DecodeInvertsEncode : ref.WellFormed ∧ Instr.wellFormed ref (.wrbTmrSr 0x10035 0xFF) = true ∧
    encode (.wrbTmrSr 0x10035 0xFF) = some 0x20001003500FF ∧ encode (.sync 0x100000000) = none :=
  ⟨by decide, by decide, by decide, by simp [encode, Instr.op, Op.pack]⟩
theorem witness_EncodeInvertsDecode : decodeWord ref 0x5FFFFFFFF0000 = .ok (.sync 0xFFFFFFFF) := by decide
theorem witness_EveryOperationSelectsOneBehaviour : ref.WellFormed ∧ Instr.wellFormed ref (.rdwMem 0x1003F) = true ∧
    Instr.op (.rdwMem 0x1003F) = .rdw 0x1003F := by decide
theorem witness_MaskFirstReading : configCareful ref ∧ careful ref (.rdb 0x10040) = true ∧
    careful ref (.rdw 0x2000) = true ∧ careful ref (.wrb 0x10035 1) = true ∧ careful ref (.wrw 0x10034 0) = true ∧
    careful ref (.peekw 6) = true ∧ careful ref (.rdb 0x40) = false :=
  ⟨⟨by simp [ref, Config.CFG_REF, Config.deviceAddrs, Config.rdAddrs, Config.wrAddrs, Config.BOOT_ADDRS], by decide, by decide⟩,
   by decide, by decide, by decide, by decide, by decide, by decide⟩
theorem witness_CarefulOperations : State.reset.halted = false ∧ State.reset.img.wf ∧ Memory.wf [(0x27, 0x7F)] ∧
    careful State.reset.cfg (.rdw 0x1600) = true ∧ 0x27 ∈ State.reset.cfg.wrAddrs.map idx := by decide
theorem witness_CarefulOperations_agree (j : Nat) (h : j ∉ State.reset.cfg.wrAddrs.map idx) :
    Memory.byteAt [(0x27, 0x7F)] j = State.reset.img.byteAt j := by
  have hj : j ≠ 0x27 := fun e => h (by subst e; decide)
  rw [Memory.byteAt_cons, if_neg hj]
  rfl
theorem witness_StepPerforms : State.reset.halted = false ∧ State.reset.cfg.WellFormed ∧
    ({ State.reset with pending := [.word 0x50000000C0000] } : State).pending = .word 0x50000000C0000 :: [] ∧
    (Request.word 0x50000000C0000).decode ref = .ok (.sync 12) ∧ (Request.op (.rdb 6)).decode ref = .ok (.rdbMem 6) := by decide
theorem witness_StepWithout_halted : haltedState.halted = true := by decide
theorem witness_StepWithout_config : State.reset.halted = false ∧ ¬ { ref with A_ACIA_DR_RD := 0x10040 }.WellFormed := by decide
theorem witness_StepWithout_idle : State.reset.halted = false ∧ State.reset.cfg.WellFormed ∧ State.reset.pending = [] := by decide
theorem witness_StepWithout_word : (State.reset.withFetchWord 52 0x6000000000000).pending = [.word 0x6000000000000] ∧
    unpack 0x6000000000000 = .error .noSuchOpCode := by decide
theorem witness_running_and_halted : State.reset.halted = false ∧ haltedState.halted = true := by decide
theorem witness_RdbMem : State.reset.halted = false ∧ State.reset.cfg.UNBOUND_DIR_FATAL = false ∧
    unboundFatal.cfg.UNBOUND_DIR_FATAL = true ∧ (0x2000 : Addr) ∉ unboundFatal.cfg.wrAddrs := by decide
/-- An address for each encoding clause of the behaviours' statements, at the edges of the port addresses. -/
theorem witness_Encodings : ref.WellFormed ∧ (0x10041 : Addr) ∉ ref.rdAddrs ∧ (0x10020 : Addr) ∉ ref.wrAddrs ∧
    (0x1003F : Addr) ∉ ref.deviceAddrs ∧ (7 : Addr) ∉ [(0 : Addr), 2, 4, 6] ∧ (7 : Addr) ∉ ref.deviceAddrs ∧
    (0x10042 : Addr) ∈ ref.deviceAddrs ∧ (0x10042 : Addr) ∉ [(0 : Addr), 2, 4, 6] := by decide
theorem witness_MemoryWrites : (withImg [(0, 0xAB)]).halted = false ∧ (withImg [(0, 0xAB)]).img.wf := by decide
theorem witness_FourCauses : State.reset.halted = false ∧ State.reset.cfg.WellFormed ∧
    State.reset.cfg.UNBOUND_DIR_FATAL = false := by decide
theorem witness_UnboundDirection : unboundFatal.halted = false ∧ unboundFatal.cfg.UNBOUND_DIR_FATAL = true ∧
    (0x10027 : Addr) ∈ unboundFatal.cfg.wrAddrs ∧ (0x10027 : Addr) ∉ unboundFatal.cfg.rdAddrs := by decide
theorem witness_AnyOrder : State.reset.halted = false ∧
    [Instr.wrbTmrRl 0x1002B 3, .wrbTmrRh 0x10027 1, .wrbTmrRm 0x10029 2].Perm
      [.wrbTmrRh 0x10027 1, .wrbTmrRm 0x10029 2, .wrbTmrRl 0x1002B 3] := by decide
theorem witness_Sync_literal : (timer 0 1 3).halted = false ∧ (timer 0 1 3).cfg.SYNC_GATE = .literal := by decide
theorem witness_Sync_whole : (wholeGate (timer 0 1 3)).halted = false ∧ (wholeGate (timer 0 1 3)).cfg.SYNC_GATE = .whole ∧
    (wholeGate (timer 0 1 3)).tmr_enabled = true ∧ (wholeGate (stopped 5 0 7)).tmr_enabled = false := by decide
theorem witness_GateReadings : (timer 0 1 3).gatesAgree ∧ (stopped 5 5 7).gatesAgree ∧ (stopped 5 5 7).halted = false ∧
    ¬ (stopped 5 0 7).gatesAgree := by decide
theorem witness_Frozen : (stopped 0 1 7).halted = false ∧ (stopped 0 1 7).tmr_enabled = false ∧
    0 ≤ (stopped 0 1 7).prescaler ∧ 0 < (stopped 0 1 7).counter := by decide
theorem witness_NegativePrescaler : (timer (-1) 2 7).halted = false ∧ (timer (-1) 2 7).prescaler < 0 ∧
    (timer (-1) 2 7).cfg.SYNC_GATE = .literal ∧ 1 < (timer (-1) 2 7).counter ∧
    (wholeGate (timer (-1) 2 7)).tmr_enabled = true := by decide
theorem witness_PrescalerRange : nextAnd (exec (.sync 32) (timer 31 2 7)) (fun _ => true) = true ∧
    (timer 31 2 7).prescaler ≤ 31 ∧ 0 ≤ (timer 31 2 7).prescaler := by decide
theorem witness_Fits32 : (timer 31 5 7).Fits32 0x7FFFFFFF ∧ (stopped (-10) 0 7).Fits32 0x7FFFFFFF :=
  ⟨⟨by decide, by decide, by decide, by decide, by decide⟩, ⟨by decide, by decide, by decide, by decide, by decide⟩⟩
theorem witness_Run32 : (∀ n, Instr.sync n ∈ [Instr.wrbTmrCr 0x10021 0x20, .sync 0x7FFFFFFF] → n ≤ 2 ^ 31 - 1) ∧
    nextAnd (execAll [.wrbTmrCr 0x10021 0x20, .sync 0x7FFFFFFF] State.reset) (fun _ => true) = true :=
  ⟨by simp, by rfl⟩
/-- Y22: C = 40 from a prescaler of 7. -/
theorem witness_TickCount : (timer 7 100 0x64).halted = false ∧ (timer 7 100 0x64).tmr_enabled = true ∧
    (∀ n ∈ [7, 1, 32], n ≤ 32) ∧ (timer 7 100 0x64).prescaler = (7 : Nat) ∧ ticks 7 [7, 1, 32].sum = 2 ∧
    ((ticks 7 [7, 1, 32].sum : Nat) : Int) < (timer 7 100 0x64).counter := by decide
/-- L1-5, and a second tick. -/
theorem witness_ReloadEvent : (timer 0 2 3).tmr_enabled = true ∧ (timer 0 2 3).prescaler = (0 : Nat) ∧
    (timer 0 2 3).counter = (2 : Nat) ∧ ticks 0 [32].sum + 1 = 2 ∧ ticks 0 ([32].sum + 1) = 2 ∧
    (timer 0 2 3).halted = false ∧ ∀ k ∈ [32], k ≤ 32 := by decide
/-- X3; then a counter at 0 with no tick, and a negative prescaler. -/
theorem witness_Acknowledge : (timer 0 1 4).halted = false ∧ (timer 0 1 4).tmr_enabled = true ∧
    tickCounter (countCycles true 0 6) 1 ≤ 0 ∧ tickCounter (countCycles true 31 1) 0 ≤ 0 ∧
    tickCounter (countCycles true (-10) 6) 1 ≤ 0 := by decide
/-- A state that meets the invariant with level 5 driven. -/
theorem witness_LowersTheLevel : ({ State.reset with ipl := 5, ipl_events := [5] } : State).Inv ∧
    nextAnd (exec (.wrbTmrSr 0x10035 1) { State.reset with ipl := 5, ipl_events := [5] })
      (fun t => decide (t.ipl.toNat < 5)) = true :=
  ⟨⟨by decide, by decide, by decide, by decide, by decide, by decide, by decide, by decide⟩, by decide⟩
theorem witness_RaisesTheLevel : nextAnd (exec (.sync 1) (timer 0 1 3)) (fun t => t.ipl_events != []) = true ∧
    nextAnd (exec (.wrbTmrSr 0x10035 1) State.reset) (fun t => t.ipl_events != []) = true ∧
    nextAnd (exec (.sync 1) (timer 0 1 3)) (fun t => decide ((timer 0 1 3).ipl.toNat < t.ipl.toNat)) = true := by decide
theorem witness_EachFieldChanges :
    nextAnd (exec (.wrbMem 0 1) State.reset) (fun t => t.img != []) = true ∧
    nextAnd (exec (.wrbAciaCr 0x10040 0x15) State.reset) (fun t => t.acia_enabled) = true ∧
    nextAnd (exec (.wrbAciaDr 0x10042 1) State.reset) (fun t => t.tx != []) = true ∧
    nextAnd (exec (.wrbTmrRl 0x1002B 1) State.reset) (fun t => t.reload != 0) = true ∧
    nextAnd (exec (.sync 1) (timer 0 5 3)) (fun t => t.counter != 5 && t.prescaler != 0) = true ∧
    nextAnd (exec (.wrbTmrCr 0x10021 0x20) State.reset) (fun t => t.tmr_enabled) = true ∧
    nextAnd (exec (.sync 1) (timer 0 1 3)) (fun t => t.ipl != 0) = true ∧
    nextAnd (exec (.peekwDev 0x10035) State.reset) (fun t => t.halted && t.fatal != none) = true ∧
    nextAnd (exec (.rdbMem 0x10027) unboundFatal) (fun t => t.halted && t.fatal != none) = true ∧
    nextAnd (exec (.rdbMem 0x2000) State.reset) (fun t => t.results != []) = true := by decide
theorem witness_Reads : isRead (.rdwMem 0x1600) = true ∧
    nextAnd (exec (.rdwMem 0x1600) State.reset) (fun t => !t.halted) = true := by decide
theorem witness_Peek :
    nextAnd (exec (decode ref (.peekw 0x10035)) State.reset) (fun t => t.halted) = true ∧
    nextAnd (exec (decode ref (.peekw 0x1600)) State.reset) (fun t => !t.halted) = true := by decide
theorem witness_SerialEnable : (∀ a v, Instr.sync 4 ≠ .wrbAciaCr a v) ∧
    nextAnd (exec (.sync 4) (timer 0 1 3)) (fun _ => true) = true :=
  ⟨fun _ _ h => (nomatch h), by decide⟩
theorem witness_FatalIsDecided : State.reset.cfg = (timer 0 1 3).cfg ∧ State.reset.halted = false ∧
    (timer 0 1 3).halted = false := by decide
theorem witness_Identity : State.reset.halted = false ∧ State.reset.img.wf ∧ (0x1003F : Addr) ∉ ref.deviceAddrs ∧
    (0xFFFF : Addr) ∉ ref.deviceAddrs := by decide
theorem witness_MixedWidth : (0x2000 : Addr) ∉ ref.deviceAddrs ∧ (0x2000 + 1 : Addr) ∉ ref.deviceAddrs := by decide
theorem witness_Wrap : (0x10000 : Addr).toNat % 65536 = (0 : Addr).toNat % 65536 ∧
    unboundFatal.cfg.UNBOUND_DIR_FATAL = true ∧ (0x10000 : Addr) ∉ unboundFatal.cfg.wrAddrs ∧
    (0 : Addr) ∉ unboundFatal.cfg.wrAddrs := by decide
/-- X1. -/
theorem witness_Precise : nextAnd (presentAll [.wrb 0x2000 0x11] State.reset)
    (fun t => !t.halted && nextAnd (present (.wrw 0x10029 0x2233) t) (fun u => u.halted)) = true := by decide
theorem witness_StepKeepsInv : State.reset.Inv ∧ haltedState.Inv ∧
    nextAnd (step (State.reset.withFetchWord 52 0x50000000C0000)) (fun _ => true) = true :=
  ⟨⟨by decide, by decide, by decide, by decide, by decide, by decide, by decide, by decide⟩,
   ⟨by decide, by decide, by decide, by decide, by decide, by decide, by decide, by decide⟩, by decide⟩
theorem witness_Loader : State.reset.img.wf ∧ 0x1600 + [0x4E, 0x71].length ≤ 65536 ∧
    65536 < 0xFFFF + [0xAA, 0xBB].length ∧ ([0xAA, 0xBB] : List Byte) ≠ [] := by decide
theorem witness_HostRun : ref.WellFormed ∧
    (∃ r, loadFile (some "1600: 4E 71".toList) (State.powerOn ref) = some r ∧ r.ok = true) ∧
    (∃ r, loadFile none (State.powerOn ref) = some r ∧ r.ok = false) := ⟨by decide, ⟨_, rfl, rfl⟩, ⟨_, rfl, rfl⟩⟩
/-- A step of one fetch and its `SYNC`. -/
def oneStep (_ : State) : CpuStep := ⟨0x1600, [], [.rdw 0x1600], 4⟩
/-- P4: two steps reach the cap. -/
theorem witness_RunToTheCap : (∀ s, (oneStep s).ops.length = 2) ∧
    (match traceLoop [] oneStep 2 State.reset with
      | .capReached t => t.opsIssued == 6
      | .illegalWord _ => false
      | .fatalMisuse _ => false
      | .loadFailed _ => false
      | .noRun => false) = true :=
  ⟨fun _ => rfl, by decide⟩

end Sys2Proof.Tests
end

section
/-! PROOFS. The outcomes of an operation and of a step (00_scope.md R9, R15). -/

namespace Sys2Proof.Machine

/-- `t` has returned no value and taken no fatal-misuse halt beyond what `s` had: the record of outcomes
(`halted`, `fatal`, `results`; log entries 4 and 5) is the one of `s`. -/
structure State.SameOutcomes (s t : State) : Prop where
  halted : t.halted = s.halted
  fatal : t.fatal = s.fatal
  results : t.results = s.results

theorem tickAndReload_sameOutcomes (s : State) (p : Int) : s.SameOutcomes (s.tickAndReload p) := by
  obtain ⟨-, -, h⟩ | ⟨-, -, h⟩ | ⟨-, h⟩ := tickAndReload_cases s p <;> rw [h] <;> exact ⟨rfl, rfl, rfl⟩

theorem effect_sync_sameOutcomes (n : Nat) (s : State) : s.SameOutcomes (effect (.sync n) s) := by
  obtain ⟨-, -, h⟩ | ⟨-, h⟩ := effect_sync n s <;> rw [h]
  · exact ⟨rfl, rfl, rfl⟩
  · exact tickAndReload_sameOutcomes s _

/-- `WRB.TMR_SR` drives the idle level on the byte 0x01 and does nothing on any other (42_interval_timer.md R153). -/
theorem effect_wrbTmrSr (a : Addr) (v : Byte) (s : State) :
    effect (.wrbTmrSr a v) s = if isStatusClear v then s.setIPL Config.IPL_IDLE else s := rfl

theorem effect_wrbTmrSr_sameOutcomes (a : Addr) (v : Byte) (s : State) :
    s.SameOutcomes (effect (.wrbTmrSr a v) s) := by
  rw [effect_wrbTmrSr]
  split <;> exact ⟨rfl, rfl, rfl⟩

/-- All that an operation can record of its outcome: a read returns one value, a write or a `SYNC` returns none,
or the operation is fatal. -/
theorem effect_outcome (i : Instr) (s : State) :
    (isRead i = true ∧ ∃ r, effect i s = s.returnRead r) ∨
    (isRead i = false ∧ s.SameOutcomes (effect i s)) ∨
    (∃ code a w, effect i s = s.raiseFatal code a w) := by
  cases i with
  | rdbAciaSr _ | rdbTmrSr _ | rdwMem _ | peekwBoot _ | peekwMem _ => exact .inl ⟨rfl, _, rfl⟩
  | rdbMem a =>
    by_cases h : s.cfg.UNBOUND_DIR_FATAL = true ∧ a ∈ s.cfg.wrAddrs
    · exact .inr (.inr ⟨_, _, _, effect_rdbMem_of_unbound h⟩)
    · exact .inl ⟨rfl, _, effect_rdbMem_of_plain h⟩
  | wrbAciaDr _ _ | wrbAciaCr _ _ | wrbTmrRh _ _ | wrbTmrRm _ _ | wrbTmrRl _ _ | wrbTmrCr _ _ | wrbMem _ _
  | wrwMem _ _ => exact .inr (.inl ⟨rfl, rfl, rfl, rfl⟩)
  | wrbTmrSr a v => exact .inr (.inl ⟨rfl, effect_wrbTmrSr_sameOutcomes a v s⟩)
  | sync n => exact .inr (.inl ⟨rfl, effect_sync_sameOutcomes n s⟩)
  | rdbAciaDr _ | rdwDev _ | wrwDev _ _ | peekwDev _ => exact .inr (.inr ⟨_, _, _, rfl⟩)

/-- No operation has an outcome on a halted state (00_scope.md R15). -/
theorem exec_of_halted (i : Instr) {s : State} (h : s.halted = true) : exec i s = .fault .halted := by
  rw [exec_eq_whenRunning, whenRunning_of_halted h]

/-- A packed word that spells no operation selects no behaviour, for the same reason. -/
theorem decode_word_of_unpack_error {t : Packed} {e : DecodeError} (cfg : Config) (h : unpack t = .error e) :
    (Request.word t).decode cfg = .error e := by
  simp only [Request.decode, decodeWord, h]

/-- Settles O11: on a running state `exec` is `.next` of the operation's effect, and `effect_outcome` says what
that effect records. -/
theorem everyOperationIsOkOrFatal : Obligations.EveryOperationIsOkOrFatal := by
  intro i s
  refine ⟨exec_of_halted i, fun hs => ⟨effect i s, exec_of_running i hs, ?_⟩⟩
  obtain ⟨hi, r, h⟩ | ⟨hi, h⟩ | ⟨code, a, w, h⟩ := effect_outcome i s
  · rw [h]
    exact .inl ⟨hs, rfl, fun _ => ⟨r, rfl⟩, by simp [hi]⟩
  · exact .inl ⟨h.halted.trans hs, h.fatal, by simp [hi], fun _ => h.results⟩
  · exact .inr ⟨⟨code, a, w⟩, h⟩

/-- Settles O10: the four ways in which `step` performs no operation, in the order of its tests. -/
theorem stepWithoutAnOperation : Obligations.StepWithoutAnOperation := fun s =>
  ⟨step_of_halted, step_of_illFormed, step_idle, fun _ _ _ hs hw hp he =>
    step_of_error hs hw hp (decode_word_of_unpack_error s.cfg he)⟩

end Sys2Proof.Machine
end

section
/-! PROOFS. The record `S` (10_state.md): its power-on values (R46), and which behaviours can change each of its fields (R20 to R27, R41, R42). -/

namespace Sys2Proof.Machine

/-- The empty image of power-on is in canonical form. -/
theorem Memory.wf_nil : Memory.wf [] := ⟨.nil, fun _ h => nomatch h⟩

/-- Settles O50: each value stands in `State.powerOn`; an unlisted byte of its empty image reads 0. -/
theorem powerOnState : Obligations.PowerOnState := fun _ =>
  ⟨rfl, rfl, rfl, rfl, rfl, rfl, rfl, rfl, rfl, Memory.byteAt_nil, rfl, rfl⟩

/-- Settles O51: the bounds at zero counts; the clauses on levels and on the fatal record speak of empty lists. -/
theorem powerOnMeetsTheBlockInvariant : Obligations.PowerOnMeetsTheBlockInvariant := fun _ =>
  { img_wf := Memory.wf_nil
    counter_nonneg := le_refl 0
    counter_lt := by simp [State.powerOn]
    prescaler_le := by simp [State.powerOn]
    ipl_last := rfl
    levels := fun _ h => nomatch h
    halted_iff := rfl
    fatal_device := fun _ h => nomatch h }

/-- Steps (b) and (c) of cycle-sync touch the counts and the level alone (42_interval_timer.md R155). -/
theorem tickAndReload_frame (s : State) (p : Int) :
    s.tickAndReload p = { s with
      counter := (s.tickAndReload p).counter, prescaler := (s.tickAndReload p).prescaler
      ipl := (s.tickAndReload p).ipl, ipl_events := (s.tickAndReload p).ipl_events } := by
  obtain ⟨-, -, h⟩ | ⟨-, -, h⟩ | ⟨-, h⟩ := tickAndReload_cases s p <;> rw [h] <;> rfl

/-- `SYNC` touches the counts and the level alone, under either setting of `SYNC_GATE`. -/
theorem effect_sync_frame (n : Nat) (s : State) :
    effect (.sync n) s = { s with
      counter := (effect (.sync n) s).counter, prescaler := (effect (.sync n) s).prescaler
      ipl := (effect (.sync n) s).ipl, ipl_events := (effect (.sync n) s).ipl_events } := by
  obtain ⟨-, -, h⟩ | ⟨-, h⟩ := effect_sync n s <;> rw [h]
  exact tickAndReload_frame s _

/-- A status byte other than 0x01 does nothing (42_interval_timer.md R153). -/
theorem effect_wrbTmrSr_of_ne {v : Byte} (a : Addr) (s : State) (h : v ≠ 1) : effect (.wrbTmrSr a v) s = s := by
  rw [effect_wrbTmrSr, if_neg]
  simpa [isStatusClear, Config.TMR_SR_CLEAR] using h

/-- The status byte 0x01 drives the idle level (42_interval_timer.md R153). -/
theorem effect_wrbTmrSr_one (a : Addr) (s : State) :
    effect (.wrbTmrSr a 1) s = s.setIPL Config.IPL_IDLE := rfl

/-- Settles O41: the effect of each behaviour is one update of the state, and the fields that update leaves alone
are the ones the behaviour does not write. -/
theorem eachFieldHasItsOwnWriters : Obligations.EachFieldHasItsOwnWriters := by
  intro i s t h
  obtain ⟨hs, rfl⟩ := exec_eq_next.mp h
  cases i with
  | rdbAciaSr _ | rdbTmrSr _ | rdwMem _ | peekwBoot _ | peekwMem _ => simp [effect, isRead, Instr.op, hs]
  | rdbMem a =>
    by_cases hu : s.cfg.UNBOUND_DIR_FATAL = true ∧ a ∈ s.cfg.wrAddrs
    · simp [effect_rdbMem_of_unbound hu, hu]
    · simp [effect_rdbMem_of_plain hu, isRead, Instr.op, hs]
  | rdbAciaDr _ | rdwDev _ | wrwDev _ _ | peekwDev _ => simp [effect]
  | wrbAciaDr _ _ | wrbAciaCr _ _ | wrbTmrRh _ _ | wrbTmrRm _ _ | wrbTmrRl _ _ | wrbTmrCr _ _ | wrbMem _ _
  | wrwMem _ _ => simp [effect]
  | wrbTmrSr a v =>
    rcases eq_or_ne v 1 with rfl | hv
    · rw [effect_wrbTmrSr_one]; simp
    · simp [effect_wrbTmrSr_of_ne a s hv]
  | sync n => rw [effect_sync_frame]; simp

end Sys2Proof.Machine
end

section
/-! PROOFS. The decoder beside the ports (30_encoding.md R86 to R91): what an operation selects at an address that is no port of its direction, and that a behaviour keeps its operation. -/

namespace Sys2Proof

theorem decode_rdb_of_not_mem {cfg : Config} {a : Addr} (h : a ∉ cfg.rdAddrs) : decode cfg (.rdb a) = .rdbMem a := by
  simp only [Config.rdAddrs, List.mem_cons, not_or] at h
  simp [decode, decodeRdb, h]

theorem decode_wrb_of_not_mem {cfg : Config} {a : Addr} (v : Byte) (h : a ∉ cfg.wrAddrs) :
    decode cfg (.wrb a v) = .wrbMem a v := by
  simp only [Config.wrAddrs, List.mem_cons, not_or] at h
  simp [decode, decodeWrb, h]

theorem decode_rdw_of_not_mem {cfg : Config} {a : Addr} (h : a ∉ cfg.deviceAddrs) :
    decode cfg (.rdw a) = .rdwMem a :=
  if_neg h

theorem decode_wrw_of_not_mem {cfg : Config} {a : Addr} (w : Word) (h : a ∉ cfg.deviceAddrs) :
    decode cfg (.wrw a w) = .wrwMem a w :=
  if_neg h

/-- All that a byte read can select: a serial port, the timer's status port, or plain memory at an address that is
no read-side one. -/
theorem decode_rdb_cases (cfg : Config) (a : Addr) :
    decode cfg (.rdb a) = .rdbAciaSr a ∨ decode cfg (.rdb a) = .rdbAciaDr a ∨
    (a = cfg.A_TMR_SR_RD ∧ decode cfg (.rdb a) = .rdbTmrSr a) ∨
    (a ∉ cfg.rdAddrs ∧ decode cfg (.rdb a) = .rdbMem a) := by
  by_cases h : a ∈ cfg.rdAddrs
  · simp only [decode, decodeRdb]
    split_ifs with h1 h2 h3
    · exact .inl rfl
    · exact .inr (.inl rfl)
    · exact .inr (.inr (.inl ⟨h3, rfl⟩))
    · simp [Config.rdAddrs, h1, h2, h3] at h
  · exact .inr (.inr (.inr ⟨h, decode_rdb_of_not_mem h⟩))

/-- All that a peek can select: a bootstrap word, a device, or plain memory. -/
theorem decode_peekw_cases (cfg : Config) (a : Addr) :
    (∃ b, decode cfg (.peekw a) = .peekwBoot b) ∨
    (a ∈ cfg.deviceAddrs ∧ decode cfg (.peekw a) = .peekwDev a) ∨
    (a ∉ cfg.deviceAddrs ∧ decode cfg (.peekw a) = .peekwMem a) := by
  simp only [decode, decodePeekw]
  cases BootSlot.ofAddr? a with
  | some b => exact .inl ⟨b, rfl⟩
  | none =>
    by_cases h : a ∈ cfg.deviceAddrs
    · exact .inr (.inl ⟨h, if_pos h⟩)
    · exact .inr (.inr ⟨h, if_neg h⟩)

/-- A selected behaviour belongs to the operation that selected it (R88). -/
theorem decode_op (cfg : Config) (o : Op) : (decode cfg o).op = o := by
  cases o with
  | rdb a => simp only [decode, decodeRdb]; split_ifs <;> rfl
  | wrb a v => simp only [decode, decodeWrb]; split_ifs <;> rfl
  | rdw a => simp only [decode, decodeRdw]; split_ifs <;> rfl
  | wrw a w => simp only [decode, decodeWrw]; split_ifs <;> rfl
  | sync n => rfl
  | peekw a =>
    simp only [decode, decodePeekw]
    cases hb : BootSlot.ofAddr? a with
    | some b => rw [BootSlot.ofAddr?_eq_some.mp hb]; rfl
    | none => split_ifs <;> rfl

theorem not_mem_rdAddrs {cfg : Config} {a : Addr} (h : a ∉ cfg.deviceAddrs) : a ∉ cfg.rdAddrs :=
  fun ha => h (List.mem_append_left _ ha)

theorem not_mem_wrAddrs {cfg : Config} {a : Addr} (h : a ∉ cfg.deviceAddrs) : a ∉ cfg.wrAddrs :=
  fun ha => h (List.mem_append_right _ ha)

end Sys2Proof
end

section
/-! PROOFS. Reads (20_memory.md R61, R62): a read's outcome is decided by the configuration and by the image bytes at the indexes it reads, and a read leaves both as they were. -/

namespace Sys2Proof.Machine

/-- The image indexes a behaviour reads. -/
def readIndexes : Instr → List Nat
  | .rdbTmrSr a | .rdbMem a => [idx a]
  | .rdwMem a | .peekwMem a => [idx a, idxNext a]
  | .rdbAciaSr _ | .rdbAciaDr _ | .wrbAciaDr _ _ | .wrbAciaCr _ _ | .wrbTmrRh _ _ | .wrbTmrRm _ _ | .wrbTmrRl _ _
  | .wrbTmrCr _ _ | .wrbTmrSr _ _ | .wrbMem _ _ | .rdwDev _ | .wrwDev _ _ | .wrwMem _ _ | .peekwBoot _ | .peekwDev _
  | .sync _ => []

/-- `t` offers a behaviour the same inputs as `s`: the configuration, and the image bytes it reads. -/
structure State.SameInputs (i : Instr) (s t : State) : Prop where
  cfg : t.cfg = s.cfg
  img : ∀ j ∈ readIndexes i, t.img.byteAt j = s.img.byteAt j

theorem State.SameInputs.refl (i : Instr) (s : State) : s.SameInputs i s := ⟨rfl, fun _ _ => rfl⟩

/-- A returned value changes no input of any behaviour. -/
theorem State.SameInputs.of_returnRead (i : Instr) (s : State) (r : ReadResult) : s.SameInputs i (s.returnRead r) :=
  ⟨rfl, fun _ _ => rfl⟩

/-- A read returns a value or is fatal, and does the same in every state that offers it the same inputs. -/
theorem effect_read_of_sameInputs {i : Instr} (hi : isRead i = true) (s : State) :
    (∃ r, ∀ t, s.SameInputs i t → effect i t = t.returnRead r) ∨
    (∃ code a w, ∀ t, s.SameInputs i t → effect i t = t.raiseFatal code a w) := by
  cases i with
  | rdbAciaSr _ => exact .inl ⟨.byte s.cfg.ACIA_TX_READY, fun t ht => by rw [← ht.cfg]; rfl⟩
  | peekwBoot b => exact .inl ⟨.word (bootWord s.cfg b), fun t ht => by rw [← ht.cfg]; rfl⟩
  | rdbTmrSr a =>
    exact .inl ⟨.byte (s.memRead1 a), fun t ht => by
      rw [State.memRead1, ← ht.img (idx a) (by simp [readIndexes])]; rfl⟩
  | rdwMem a | peekwMem a =>
    exact .inl ⟨.word (s.memRead2 a), fun t ht => by
      rw [State.memRead2, ← ht.img (idx a) (by simp [readIndexes]),
        ← ht.img (idxNext a) (by simp [readIndexes])]
      rfl⟩
  | rdbMem a =>
    by_cases hu : s.cfg.UNBOUND_DIR_FATAL = true ∧ a ∈ s.cfg.wrAddrs
    · exact .inr ⟨_, _, _, fun t ht => effect_rdbMem_of_unbound (by rwa [ht.cfg])⟩
    · exact .inl ⟨.byte (s.memRead1 a), fun t ht => by
        rw [effect_rdbMem_of_plain (by rwa [ht.cfg]), State.memRead1, State.memRead1,
          ht.img (idx a) (by simp [readIndexes])]⟩
  | rdbAciaDr _ | rdwDev _ | peekwDev _ => exact .inr ⟨_, _, _, fun _ _ => rfl⟩
  | wrbAciaDr _ _ | wrbAciaCr _ _ | wrbTmrRh _ _ | wrbTmrRm _ _ | wrbTmrRl _ _ | wrbTmrCr _ _ | wrbTmrSr _ _
  | wrbMem _ _ | wrwDev _ _ | wrwMem _ _ | sync _ => cases hi

/-- Settles O42: a read's effect is `returnRead` or `raiseFatal`, and a returned value leaves the read's inputs as
they were. -/
theorem readsChangeOnlyTheHaltLatch : Obligations.ReadsChangeOnlyTheHaltLatch := by
  intro i s t hi h
  obtain ⟨hs, rfl⟩ := exec_eq_next.mp h
  obtain ⟨r, hr⟩ | ⟨code, a, w, hf⟩ := effect_read_of_sameInputs hi s
  · rw [hr s (.refl i s)]
    refine ⟨rfl, fun ht => ⟨r, rfl, ?_⟩⟩
    rw [exec_of_running i ht, hr _ (.of_returnRead i s r)]
    rfl
  · rw [hf s (.refl i s)]
    exact ⟨rfl, fun ht => nomatch ht⟩

end Sys2Proof.Machine
end

section
/-! PROOFS. The bytes under the write-side ports (93_implementation_defined.md U5): what an operation does with another image, and that a careful one reads no byte under a write-side port. -/

namespace Sys2Proof.Machine

/-- The interrupt request neither reads nor writes the image. -/
theorem requestIfEnabled_withImage (s : State) (m : Memory) :
    ({ s with img := m } : State).requestIfEnabled = { s.requestIfEnabled with img := m } := by
  cases h : s.tmr_enabled <;> simp [State.requestIfEnabled, h, State.setIPL]

/-- Steps (b) and (c) of cycle-sync neither read nor write the image. -/
theorem tickAndReload_withImage (s : State) (m : Memory) (p : Int) :
    ({ s with img := m } : State).tickAndReload p = { s.tickAndReload p with img := m } := by
  unfold State.tickAndReload
  split
  · exact requestIfEnabled_withImage (s.setCounts (tickPrescaler p) s.reload.toNat) m
  · rfl

/-- `SYNC` neither reads nor writes the image. -/
theorem effect_sync_withImage (n : Nat) (s : State) (m : Memory) :
    effect (.sync n) { s with img := m } = { effect (.sync n) s with img := m } := by
  obtain ⟨hg, he, h⟩ | ⟨hg, h⟩ := effect_sync n s
  · rw [h]
    simp [effect, hg, he]
  · obtain ⟨hg', he', -⟩ | ⟨-, h'⟩ := effect_sync n { s with img := m }
    · exact absurd ⟨hg', he'⟩ hg
    · rw [h, h', State.cycleSync, tickAndReload_withImage]
      rfl

/-- On an image that agrees at the indexes it reads, a behaviour does the same to every field but the image. -/
theorem effect_withImage {i : Instr} {s : State} {m : Memory}
    (h : ∀ j ∈ readIndexes i, m.byteAt j = s.img.byteAt j) :
    effect i { s with img := m } = { effect i s with img := (effect i { s with img := m }).img } := by
  cases hi : isRead i with
  | true =>
    obtain ⟨r, hr⟩ | ⟨code, a, w, hf⟩ := effect_read_of_sameInputs hi s
    · rw [hr s (.refl i s), hr { s with img := m } ⟨rfl, h⟩]; rfl
    · rw [hf s (.refl i s), hf { s with img := m } ⟨rfl, h⟩]; rfl
  | false =>
    cases i with
    | wrbAciaDr _ _ | wrbAciaCr _ _ | wrbTmrRh _ _ | wrbTmrRm _ _ | wrbTmrRl _ _ | wrbTmrCr _ _ | wrbMem _ _
    | wrwDev _ _ | wrwMem _ _ => rfl
    | wrbTmrSr a v =>
      simp only [effect_wrbTmrSr]
      split <;> rfl
    | sync n => rw [effect_sync_withImage]
    | rdbAciaSr _ | rdbAciaDr _ | rdbTmrSr _ | rdbMem _ | rdwDev _ | rdwMem _ | peekwBoot _ | peekwDev _
    | peekwMem _ => cases hi

/-- The same store in two images keeps them agreeing at an index. -/
theorem Memory.byteAt_store_congr {m m' : Memory} (hm : m.wf) (hm' : m'.wf) (i : Nat) (v : Byte) {j : Nat}
    (h : m.byteAt j = m'.byteAt j) : (m.store i v).byteAt j = (m'.store i v).byteAt j := by
  rcases eq_or_ne j i with rfl | hj
  · rw [Memory.byteAt_store_eq hm, Memory.byteAt_store_eq hm']
  · rw [Memory.byteAt_store_ne _ _ hj, Memory.byteAt_store_ne _ _ hj, h]

/-- A behaviour other than the two plain stores leaves the image as it is (20_memory.md R65, 92_eei_decisions.md D5). -/
theorem effect_img_of_not_store {i : Instr} {s : State} (hs : s.halted = false) (hb : ∀ a v, i ≠ .wrbMem a v)
    (hw : ∀ a w, i ≠ .wrwMem a w) : (effect i s).img = s.img := by
  obtain ⟨hi, -⟩ := eachFieldHasItsOwnWriters i s _ (exec_of_running i hs)
  by_contra h
  obtain ⟨a, v, rfl⟩ | ⟨a, w, rfl⟩ := hi h
  · exact hb a v rfl
  · exact hw a w rfl

/-- An operation keeps two images agreeing wherever they agreed before it. -/
theorem effect_withImage_byteAt {i : Instr} {s : State} {m : Memory} (hs : s.halted = false) (hm : m.wf)
    (hi : s.img.wf) {j : Nat} (h : m.byteAt j = s.img.byteAt j) :
    (effect i { s with img := m }).img.byteAt j = (effect i s).img.byteAt j := by
  by_cases hb : ∃ a v, i = .wrbMem a v
  · obtain ⟨a, v, rfl⟩ := hb
    exact Memory.byteAt_store_congr hm hi (idx a) v h
  by_cases hw : ∃ a w, i = .wrwMem a w
  · obtain ⟨a, w, rfl⟩ := hw
    exact Memory.byteAt_store_congr (Memory.store_wf hm (idx_lt a) _) (Memory.store_wf hi (idx_lt a) _) (idxNext a) _
      (Memory.byteAt_store_congr hm hi (idx a) _ h)
  push Not at hb hw
  rw [effect_img_of_not_store (s := { s with img := m }) hs hb hw, effect_img_of_not_store hs hb hw, h]

/-- Off the aliases of U2, no address beside the ports has its image byte under one. -/
theorem idx_not_mem_shadowIndexes {cfg : Config} {a : Addr} (h : a ∉ cfg.deviceAddrs) (ha : ¬ isAlias cfg a) :
    idx a ∉ shadowIndexes cfg :=
  fun hi => ha ⟨h, hi⟩

/-- The bytes under the write-side ports are among those under the device addresses. -/
theorem wrAddrs_idx_subset (cfg : Config) : cfg.wrAddrs.map idx ⊆ shadowIndexes cfg :=
  List.map_subset idx (List.subset_append_right _ _)

/-- A write and a `SYNC` read no image byte. -/
theorem readIndexes_of_not_read {i : Instr} (h : isRead i = false) : readIndexes i = [] := by
  cases i with
  | rdbTmrSr _ | rdbMem _ | rdwMem _ | peekwMem _ => cases h
  | _ => rfl

/-- A word read beside the ports, careful of its second byte, reads no byte under a write-side port. -/
theorem word_indexes_of_careful {cfg : Config} {a : Addr} (ha : a ∉ cfg.deviceAddrs) (halias : ¬ isAlias cfg a)
    (hnext : idxNext a ∉ shadowIndexes cfg) : ∀ j ∈ [idx a, idxNext a], j ∉ cfg.wrAddrs.map idx := by
  intro j hj hw
  have hshadow := wrAddrs_idx_subset cfg hw
  obtain rfl | rfl : j = idx a ∨ j = idxNext a := by simpa using hj
  · exact idx_not_mem_shadowIndexes ha halias hshadow
  · exact hnext hshadow

/-- A careful operation reads no image byte under a write-side port. -/
theorem readIndexes_of_careful {cfg : Config} {o : Op} (h : careful cfg o = true) :
    ∀ j ∈ readIndexes (decode cfg o), j ∉ cfg.wrAddrs.map idx := by
  cases o with
  | rdb a =>
    simp only [careful, Bool.and_eq_true, decide_eq_true_eq] at h
    obtain ⟨⟨halias, hdir⟩, hsr⟩ := h
    obtain hd | hd | ⟨ha, hd⟩ | ⟨ha, hd⟩ := decode_rdb_cases cfg a <;> rw [hd]
    · simp [readIndexes]
    · simp [readIndexes]
    · intro j hj
      obtain rfl : j = idx a := by simpa [readIndexes] using hj
      exact hsr ha
    · intro j hj hw
      obtain rfl : j = idx a := by simpa [readIndexes] using hj
      have hdev : a ∉ cfg.deviceAddrs := by simp [Config.deviceAddrs, ha, mt hdir ha]
      exact idx_not_mem_shadowIndexes hdev halias (wrAddrs_idx_subset cfg hw)
  | rdw a =>
    simp only [careful, Bool.and_eq_true, decide_eq_true_eq] at h
    obtain ⟨halias, hnext⟩ := h
    by_cases ha : a ∈ cfg.deviceAddrs
    · simp [decode, decodeRdw, ha, readIndexes]
    · rw [decode_rdw_of_not_mem ha]
      exact word_indexes_of_careful ha halias hnext
  | peekw a =>
    simp only [careful, Bool.and_eq_true, decide_eq_true_eq] at h
    obtain ⟨⟨halias, hnext⟩, -⟩ := h
    obtain ⟨b, hd⟩ | ⟨ha, hd⟩ | ⟨ha, hd⟩ := decode_peekw_cases cfg a <;> rw [hd]
    · simp [readIndexes]
    · simp [readIndexes]
    · exact word_indexes_of_careful ha halias hnext
  | wrb _ _ | wrw _ _ | sync _ =>
    rw [readIndexes_of_not_read (by rw [isRead, decode_op])]
    simp

/-- Settles O8: by `readIndexes_of_careful` the two images agree wherever the operation reads. -/
theorem carefulOperationsIgnoreTheBytesUnderWrittenPorts :
    Obligations.CarefulOperationsIgnoreTheBytesUnderWrittenPorts := by
  intro o m s hs hi hm hc hagree
  have hread : ∀ j ∈ readIndexes (decode s.cfg o), m.byteAt j = s.img.byteAt j :=
    fun j hj => hagree j (readIndexes_of_careful hc j hj)
  exact ⟨_, _, exec_of_running _ hs, exec_of_running _ hs, effect_withImage hread,
    fun j hj => effect_withImage_byteAt hs hm hi (hagree j hj)⟩

end Sys2Proof.Machine
end

section
/-! PROOFS. Plain memory (20_memory.md R51, R56, R57, R66): addresses wrap, and reads return what was written. -/

namespace Sys2Proof.Machine

/-- Presented addresses that agree modulo 65536 have the same image index (R51). -/
theorem idx_congr {a b : Addr} (h : a.toNat % 65536 = b.toNat % 65536) : idx a = idx b := h

/-- They have the same next image index, the sum being taken before the reduction (R57). -/
theorem idxNext_congr {a b : Addr} (h : a.toNat % 65536 = b.toNat % 65536) : idxNext a = idxNext b := by
  unfold idxNext Config.IMG_SIZE
  omega

theorem memRead1_congr (s : State) {a b : Addr} (h : a.toNat % 65536 = b.toNat % 65536) :
    s.memRead1 a = s.memRead1 b := by
  rw [State.memRead1, State.memRead1, idx_congr h]

theorem memRead2_congr (s : State) {a b : Addr} (h : a.toNat % 65536 = b.toNat % 65536) :
    s.memRead2 a = s.memRead2 b := by
  rw [State.memRead2, State.memRead2, idx_congr h, idxNext_congr h]

theorem memWrite1_congr (s : State) {a b : Addr} (h : a.toNat % 65536 = b.toNat % 65536) (v : Byte) :
    s.memWrite1 a v = s.memWrite1 b v := by
  rw [State.memWrite1, State.memWrite1, idx_congr h]

theorem memWrite2_congr (s : State) {a b : Addr} (h : a.toNat % 65536 = b.toNat % 65536) (w : Word) :
    s.memWrite2 a w = s.memWrite2 b w := by
  rw [State.memWrite2, State.memWrite2, idx_congr h, idxNext_congr h]

/-- Two behaviours with one effect, which does not halt the block, complete with the same next state. -/
theorem exec_eq_of_effect_eq {i i' : Instr} {s : State} (hs : s.halted = false) (ht : (effect i s).halted = false)
    (h : effect i' s = effect i s) : ∃ t, t.halted = false ∧ exec i s = .next t ∧ exec i' s = .next t :=
  ⟨effect i s, ht, exec_of_running i hs, exec_eq_next.mpr ⟨hs, h⟩⟩

/-- Settles O48: each plain access goes through `MemRead` or `MemWrite`, which take an address modulo 65536. -/
theorem addressesWrapAndNoneIsOutOfRange : Obligations.AddressesWrapAndNoneIsOutOfRange := by
  intro a b v w s hs h
  have hword : s.returnRead (.word (s.memRead2 b)) = s.returnRead (.word (s.memRead2 a)) := by rw [memRead2_congr s h]
  refine ⟨exec_eq_of_effect_eq hs hs hword, exec_eq_of_effect_eq hs hs hword,
    exec_eq_of_effect_eq hs hs (memWrite1_congr s h v).symm, exec_eq_of_effect_eq hs hs (memWrite2_congr s h w).symm,
    fun hplain => ?_⟩
  have ha : effect (.rdbMem a) s = s.returnRead (.byte (s.memRead1 a)) :=
    effect_rdbMem_of_plain fun ⟨hu, ha⟩ => by simp [hu, ha] at hplain
  have hb : effect (.rdbMem b) s = s.returnRead (.byte (s.memRead1 b)) :=
    effect_rdbMem_of_plain fun ⟨hu, hb⟩ => by simp [hu, hb] at hplain
  exact exec_eq_of_effect_eq hs (by rw [ha]; exact hs) (by rw [ha, hb, memRead1_congr s h])

theorem memRead1_memWrite1 {s : State} (h : s.img.wf) (a : Addr) (v : Byte) : (s.memWrite1 a v).memRead1 a = v :=
  memWrite1_byteAt_eq h a v

theorem memRead2_memWrite2 {s : State} (h : s.img.wf) (a : Addr) (w : Word) : (s.memWrite2 a w).memRead2 a = w := by
  rw [State.memRead2, memWrite2_byteAt_hi h, memWrite2_byteAt_lo h, joinBytes_lanes]

/-- A byte read of the first address of a written word returns its high byte (R56). -/
theorem memRead1_memWrite2_hi {s : State} (h : s.img.wf) (a : Addr) (w : Word) :
    (s.memWrite2 a w).memRead1 a = hiByte w :=
  memWrite2_byteAt_hi h a w

/-- A byte read of the second address of a written word returns its low byte (R56). -/
theorem memRead1_memWrite2_lo {s : State} (h : s.img.wf) (a : Addr) (w : Word) :
    (s.memWrite2 a w).memRead1 (a + 1) = loByte w := by
  rw [State.memRead1, idx_add_one, memWrite2_byteAt_lo h]

/-- A word read of two written bytes returns the first then the second (R56). -/
theorem memRead2_memWrite1_memWrite1 {s : State} (h : s.img.wf) (a : Addr) (x y : Byte) :
    ((s.memWrite1 a x).memWrite1 (a + 1) y).memRead2 a = joinBytes x y := by
  have hne : idx a ≠ idx (a + 1) := idx_add_one a ▸ idx_ne_idxNext a
  rw [State.memRead2, memWrite1_byteAt_ne _ _ _ hne, memWrite1_byteAt_eq h, ← idx_add_one,
    memWrite1_byteAt_eq (memWrite1_wf h a x)]

/-- A returned value leaves the image as it is (R61). -/
@[simp] theorem memRead1_returnRead (s : State) (r : ReadResult) (a : Addr) :
    (s.returnRead r).memRead1 a = s.memRead1 a := rfl

/-- `RDW.MEM` returns the image word (40_bus_memory_ops.md R111). -/
theorem effect_rdwMem (a : Addr) (s : State) : effect (.rdwMem a) s = s.returnRead (.word (s.memRead2 a)) := rfl

/-- `WRB.MEM` stores the byte (40_bus_memory_ops.md R112). -/
theorem effect_wrbMem (a : Addr) (v : Byte) (s : State) : effect (.wrbMem a v) s = s.memWrite1 a v := rfl

/-- `WRW.MEM` stores the word (40_bus_memory_ops.md R114). -/
theorem effect_wrwMem (a : Addr) (w : Word) (s : State) : effect (.wrwMem a w) s = s.memWrite2 a w := rfl

/-- `RDB.MEM` beside the ports returns the image byte under either setting of U3. -/
theorem effect_rdbMem_of_not_mem {a : Addr} {s : State} (h : a ∉ s.cfg.deviceAddrs) :
    effect (.rdbMem a) s = s.returnRead (.byte (s.memRead1 a)) :=
  effect_rdbMem_of_plain fun hu => not_mem_wrAddrs h hu.2

/-- Settles O46: beside the ports both operations of a pair are plain memory. -/
theorem writeThenReadReturnsTheValue : Obligations.WriteThenReadReturnsTheValue := by
  intro a v w s hs hwf ha
  rw [decode_wrb_of_not_mem v (not_mem_wrAddrs ha), decode_rdb_of_not_mem (not_mem_rdAddrs ha),
    decode_wrw_of_not_mem w ha, decode_rdw_of_not_mem ha]
  refine ⟨⟨s.memWrite1 a v, _, exec_of_running _ hs, exec_of_running (s := s.memWrite1 a v) _ hs, ?_⟩,
    ⟨s.memWrite2 a w, _, exec_of_running _ hs, exec_of_running (s := s.memWrite2 a w) _ hs, ?_⟩⟩
  · rw [effect_rdbMem_of_not_mem (s := s.memWrite1 a v) ha, memRead1_memWrite1 hwf]
    rfl
  · rw [effect_rdwMem, memRead2_memWrite2 hwf]
    rfl

/-- A sequence goes on from the effect of its first behaviour. -/
theorem execAll_cons_of_effect {i : Instr} {s t : State} (ht : effect i s = t) (hs : s.halted = false)
    (is : List Instr) : execAll (i :: is) s = execAll is t := by
  rw [execAll_cons i is hs, ht]

/-- Settles O47: beside the ports all six operations are plain memory, and the lanes are those of `MemRead` and
`MemWrite`. -/
theorem mixedWidthAccessesAreBigEndian : Obligations.MixedWidthAccessesAreBigEndian := by
  intro a w x y s hs hwf ha ha'
  rw [decode_wrw_of_not_mem w ha, decode_rdb_of_not_mem (not_mem_rdAddrs ha),
    decode_rdb_of_not_mem (not_mem_rdAddrs ha'), decode_wrb_of_not_mem x (not_mem_wrAddrs ha),
    decode_wrb_of_not_mem y (not_mem_wrAddrs ha'), decode_rdw_of_not_mem ha]
  constructor
  · have hhi : effect (.rdbMem a) (s.memWrite2 a w) = (s.memWrite2 a w).returnRead (.byte (hiByte w)) := by
      rw [effect_rdbMem_of_not_mem (s := s.memWrite2 a w) ha, memRead1_memWrite2_hi hwf]
    have hlo : effect (.rdbMem (a + 1)) ((s.memWrite2 a w).returnRead (.byte (hiByte w))) =
        ((s.memWrite2 a w).returnRead (.byte (hiByte w))).returnRead (.byte (loByte w)) := by
      rw [effect_rdbMem_of_not_mem (s := (s.memWrite2 a w).returnRead _) ha', memRead1_returnRead,
        memRead1_memWrite2_lo hwf]
    rw [execAll_cons_of_effect (effect_wrwMem a w s) hs, execAll_cons_of_effect hhi hs,
      execAll_cons_of_effect hlo hs]
    exact ⟨_, rfl, by simp [hiByte, loByte]⟩
  · have hread : effect (.rdwMem a) ((s.memWrite1 a x).memWrite1 (a + 1) y) =
        ((s.memWrite1 a x).memWrite1 (a + 1) y).returnRead (.word (joinBytes x y)) := by
      rw [effect_rdwMem, memRead2_memWrite1_memWrite1 hwf]
    rw [execAll_cons_of_effect (effect_wrbMem a x s) hs,
      execAll_cons_of_effect (effect_wrbMem (a + 1) y (s.memWrite1 a x)) hs, execAll_cons_of_effect hread hs]
    exact ⟨_, rfl, rfl⟩

end Sys2Proof.Machine
end

section
/-! PROOFS. The other reading of U2 (92_eei_decisions.md D2): masking every address to 16 bits keeps apart what the careful premises keep apart, so the decoder's tests come out the same. -/

namespace Sys2Proof.Machine

/-- Masked addresses are equal where the image indexes are. -/
theorem maskAddr_eq_iff {a x : Addr} : maskAddr a = maskAddr x ↔ idx a = idx x := by
  have ha := idx_lt a
  have hx := idx_lt x
  simp only [maskAddr, ← BitVec.toNat_inj, BitVec.toNat_ofNat]
  omega

theorem idx_maskAddr (a : Addr) : idx (maskAddr a) = idx a := by
  have ha := idx_lt a
  rw [maskAddr, idx, BitVec.toNat_ofNat, Config.IMG_SIZE]
  omega

/-- Masking keeps an address apart from the ports of a direction whose indexes differ, where it is one of them or its
index is none of theirs. -/
theorem maskAddr_eq_iff_of_port {l : List Addr} (hl : (l.map idx).Nodup) {a : Addr}
    (ha : a ∈ l ∨ idx a ∉ l.map idx) {x : Addr} (hx : x ∈ l) : maskAddr a = maskAddr x ↔ a = x := by
  rw [maskAddr_eq_iff]
  refine ⟨fun h => ?_, congrArg idx⟩
  obtain ha | ha := ha
  · exact List.inj_on_of_nodup_map hl ha hx h
  · exact absurd (h ▸ List.mem_map_of_mem hx) ha

/-- Off the aliases of U2, an address is a device address where its image index lies under one. -/
theorem idx_mem_shadowIndexes_iff {cfg : Config} {a : Addr} (ha : ¬ isAlias cfg a) :
    idx a ∈ shadowIndexes cfg ↔ a ∈ cfg.deviceAddrs :=
  ⟨fun h => by_contra fun hd => idx_not_mem_shadowIndexes hd ha h, List.mem_map_of_mem⟩

/-- Off the aliases of U2, masking first finds the same device addresses. -/
theorem maskAddr_mem_deviceAddrs_iff {cfg : Config} {a : Addr} (ha : ¬ isAlias cfg a) :
    maskAddr a ∈ (configMasked cfg).deviceAddrs ↔ a ∈ cfg.deviceAddrs := by
  have hmap : (configMasked cfg).deviceAddrs = cfg.deviceAddrs.map maskAddr := rfl
  rw [hmap, ← idx_mem_shadowIndexes_iff ha]
  simp only [shadowIndexes, List.mem_map, maskAddr_eq_iff]

/-- A careful address of one direction is one of that direction's ports, or its index lies under none of them. -/
theorem port_or_idx_not_mem {cfg : Config} {l : List Addr} {a : Addr} (ha : ¬ isAlias cfg a)
    (hdev : a ∈ cfg.deviceAddrs → a ∈ l) (hl : l ⊆ cfg.deviceAddrs) : a ∈ l ∨ idx a ∉ l.map idx := by
  by_cases hd : a ∈ cfg.deviceAddrs
  · exact .inl (hdev hd)
  · exact .inr fun h => idx_not_mem_shadowIndexes hd ha (List.map_subset idx hl h)

/-- Off the aliases of the bootstrap addresses, masking first finds the same slot. -/
theorem ofAddr?_maskAddr {a : Addr} (h : a ∉ Config.BOOT_ADDRS → idx a ∉ Config.BOOT_ADDRS.map idx) :
    BootSlot.ofAddr? (maskAddr a) = BootSlot.ofAddr? a := by
  cases hb : BootSlot.ofAddr? a with
  | some b =>
    obtain rfl := BootSlot.ofAddr?_eq_some.mp hb
    cases b <;> rfl
  | none =>
    refine BootSlot.ofAddr?_eq_none.mpr fun hm => h (BootSlot.ofAddr?_eq_none.mp hb) ?_
    rw [← idx_maskAddr]
    exact List.mem_map_of_mem hm

/-- Settles O7: each test of the decoder comes out the same on masked addresses. -/
theorem maskFirstReadingAgreesOnCarefulOperations : Obligations.MaskFirstReadingAgreesOnCarefulOperations := by
  rintro cfg o ⟨-, hrd, hwr⟩ hc
  cases o with
  | rdb a =>
    simp only [careful, Bool.and_eq_true, decide_eq_true_eq] at hc
    obtain ⟨⟨halias, hdir⟩, -⟩ := hc
    have hport : a ∈ cfg.rdAddrs ∨ idx a ∉ cfg.rdAddrs.map idx :=
      port_or_idx_not_mem halias (fun h => (List.mem_append.mp h).elim id hdir) (List.subset_append_left _ _)
    have htest : ∀ x ∈ cfg.rdAddrs, maskAddr a = maskAddr x ↔ a = x := fun x => maskAddr_eq_iff_of_port hrd hport
    simp only [Config.rdAddrs, List.forall_mem_cons] at htest
    obtain ⟨h1, h2, h3, -⟩ := htest
    simp only [opMasked, decode, decodeRdb, configMasked, h1, h2, h3]
    split_ifs <;> rfl
  | wrb a v =>
    simp only [careful, Bool.and_eq_true, decide_eq_true_eq] at hc
    obtain ⟨⟨halias, hdir⟩, -⟩ := hc
    have hport : a ∈ cfg.wrAddrs ∨ idx a ∉ cfg.wrAddrs.map idx :=
      port_or_idx_not_mem halias (fun h => (List.mem_append.mp h).elim hdir id) (List.subset_append_right _ _)
    have htest : ∀ x ∈ cfg.wrAddrs, maskAddr a = maskAddr x ↔ a = x := fun x => maskAddr_eq_iff_of_port hwr hport
    simp only [Config.wrAddrs, List.forall_mem_cons] at htest
    obtain ⟨h1, h2, h3, h4, h5, h6, h7, -⟩ := htest
    simp only [opMasked, decode, decodeWrb, configMasked, h1, h2, h3, h4, h5, h6, h7]
    split_ifs <;> rfl
  | rdw a =>
    simp only [careful, Bool.and_eq_true, decide_eq_true_eq] at hc
    simp only [opMasked, decode, decodeRdw, maskAddr_mem_deviceAddrs_iff hc.1]
    split_ifs <;> rfl
  | wrw a w =>
    simp only [careful, decide_eq_true_eq] at hc
    simp only [opMasked, decode, decodeWrw, maskAddr_mem_deviceAddrs_iff hc]
    split_ifs <;> rfl
  | peekw a =>
    simp only [careful, Bool.and_eq_true, decide_eq_true_eq] at hc
    obtain ⟨⟨halias, -⟩, hboot⟩ := hc
    simp only [opMasked, decode, decodePeekw, ofAddr?_maskAddr hboot, maskAddr_mem_deviceAddrs_iff halias]
    cases BootSlot.ofAddr? a with
    | some b => rfl
    | none => split_ifs <;> rfl
  | sync n => rfl

end Sys2Proof.Machine
end

section
/-! PROOFS. The packing (30_encoding.md R83, R84): what a packed word spells for each operation code, and that packing and reading invert each other. -/

namespace Sys2Proof

/-! What `unpack` reads from a word given by its fields: one equation per operation code. -/

section
variable (a : Addr) (d : Word)

theorem unpack_packFields_rdb : unpack (packFields 0 a d) = noData d (.rdb a) := by simp [unpack]
theorem unpack_packFields_rdw : unpack (packFields 1 a d) = noData d (.rdw a) := by simp [unpack]
theorem unpack_packFields_wrb : unpack (packFields 2 a d) = byteData a d := by simp [unpack]
theorem unpack_packFields_wrw : unpack (packFields 3 a d) = .ok (.wrw a d) := by simp [unpack]
theorem unpack_packFields_peekw : unpack (packFields 4 a d) = noData d (.peekw a) := by simp [unpack]
theorem unpack_packFields_sync : unpack (packFields 5 a d) = noData d (.sync a.toNat) := by simp [unpack]

theorem unpack_packFields_of_six_le {k : BitVec 4} (h : 6 ≤ k.toNat) :
    unpack (packFields k a d) = .error .noSuchOpCode := by
  simp only [unpack, packFields_pad, packFields_opCode, ne_eq, not_true_eq_false, if_false]
  split
  case h_7 => rfl
  all_goals omega

end

theorem unpack_of_pad {t : Packed} (h : t.extractLsb' 52 4 ≠ 0) : unpack t = .error .tooWide :=
  if_pos h

/-- The six operation codes of R84, and those no operation has. -/
theorem opCode_cases (k : BitVec 4) : k = 0 ∨ k = 1 ∨ k = 2 ∨ k = 3 ∨ k = 4 ∨ k = 5 ∨ 6 ≤ k.toNat := by
  decide +revert

/-! The two checks of a data field. -/

theorem noData_eq_ok {d : Word} {o o' : Op} : noData d o = .ok o' ↔ d = 0 ∧ o = o' := by
  unfold noData
  split <;> simp_all

theorem noData_eq_error {d : Word} {o : Op} : (∃ e, noData d o = .error e) ↔ d ≠ 0 := by
  unfold noData
  split <;> simp_all

theorem byteData_eq_ok {a : Addr} {d : Word} {o : Op} :
    byteData a d = .ok o ↔ d.extractLsb' 8 8 = 0 ∧ .wrb a (d.extractLsb' 0 8) = o := by
  unfold byteData
  split <;> simp_all

theorem byteData_eq_error {a : Addr} {d : Word} : (∃ e, byteData a d = .error e) ↔ d.extractLsb' 8 8 ≠ 0 := by
  unfold byteData
  split <;> simp_all

/-! Packing and reading invert each other. -/

/-- A word that spells an operation has no pad bit set, so it is its three fields. -/
theorem eq_packFields_of_unpack_eq_ok {t : Packed} {o : Op} (h : unpack t = .ok o) :
    ∃ k a d, t = packFields k a d := by
  by_cases hp : t.extractLsb' 52 4 = 0
  · exact ⟨_, _, _, packed_eq_fields t hp⟩
  · rw [unpack_of_pad hp] at h
    cases h

/-- Reading the packed word of an operation gives the operation back. -/
theorem unpack_of_pack {o : Op} {t : Packed} (h : o.pack = some t) : unpack t = .ok o := by
  cases o with
  | rdb a => cases h; exact unpack_packFields_rdb a 0
  | rdw a => cases h; exact unpack_packFields_rdw a 0
  | wrb a v =>
    cases h
    rw [unpack_packFields_wrb, byteData_eq_ok, setWidth_byte_lo]
    exact ⟨setWidth_byte_hi v, rfl⟩
  | wrw a w => cases h; exact unpack_packFields_wrw a w
  | peekw a => cases h; exact unpack_packFields_peekw a 0
  | sync n =>
    rw [Op.pack] at h
    split at h
    · cases h
      rw [unpack_packFields_sync, noData_eq_ok, BitVec.toNat_ofNat, Nat.mod_eq_of_lt ‹n < 2 ^ 32›]
      exact ⟨rfl, rfl⟩
    · cases h

/-- A word that spells an operation is the operation's packed word. -/
theorem pack_of_unpack {t : Packed} {o : Op} (h : unpack t = .ok o) : o.pack = some t := by
  obtain ⟨k, a, d, rfl⟩ := eq_packFields_of_unpack_eq_ok h
  obtain rfl | rfl | rfl | rfl | rfl | rfl | hk := opCode_cases k
  · obtain ⟨rfl, rfl⟩ := noData_eq_ok.mp ((unpack_packFields_rdb a d).symm.trans h)
    rfl
  · obtain ⟨rfl, rfl⟩ := noData_eq_ok.mp ((unpack_packFields_rdw a d).symm.trans h)
    rfl
  · obtain ⟨hd, rfl⟩ := byteData_eq_ok.mp ((unpack_packFields_wrb a d).symm.trans h)
    rw [Op.pack, ← eq_setWidth_of_hi_zero hd]
  · rw [unpack_packFields_wrw] at h
    cases h
    rfl
  · obtain ⟨rfl, rfl⟩ := noData_eq_ok.mp ((unpack_packFields_peekw a d).symm.trans h)
    rfl
  · obtain ⟨rfl, rfl⟩ := noData_eq_ok.mp ((unpack_packFields_sync a d).symm.trans h)
    rw [Op.pack, if_pos a.isLt, BitVec.ofNat_toNat, BitVec.setWidth_eq]
  · rw [unpack_packFields_of_six_le a d hk] at h
    cases h

theorem Op.pack_eq_none {o : Op} : o.pack = none ↔ ∃ n, o = .sync n ∧ 2 ^ 32 ≤ n := by
  cases o with
  | sync n => simp [Op.pack]
  | rdb _ | rdw _ | wrb _ _ | wrw _ _ | peekw _ => simp [Op.pack]

/-! The words that spell nothing. -/

/-- Bits 15:8 of a word are those of its data field. -/
theorem packFields_dataHi (k : BitVec 4) (a : Addr) (d : Word) :
    (packFields k a d).extractLsb' 8 8 = d.extractLsb' 8 8 := by
  ext i hi
  unfold packFields
  simp only [BitVec.getElem_extractLsb', BitVec.getLsbD_append]
  simp [show 8 + i < 16 by omega]

/-- Settles O6: a word with a pad bit set is refused; any other is its three fields, and each operation code has its
own test of the data field. -/
theorem wordsThatSpellNoOperation : Obligations.WordsThatSpellNoOperation := by
  intro t
  by_cases hp : t.extractLsb' 52 4 = 0
  · rw [packed_eq_fields t hp]
    generalize Packed.opCode t = k, Packed.addr t = a, Packed.data t = d
    have hk : (packFields k a d).extractLsb' 48 4 = k := packFields_opCode k a d
    have hd : (packFields k a d).extractLsb' 0 16 = d := packFields_data k a d
    rw [packFields_pad, packFields_dataHi, hk, hd]
    obtain rfl | rfl | rfl | rfl | rfl | rfl | hk := opCode_cases k
    · rw [unpack_packFields_rdb, noData_eq_error]; simp
    · rw [unpack_packFields_rdw, noData_eq_error]; simp
    · rw [unpack_packFields_wrb, byteData_eq_error]; simp
    · rw [unpack_packFields_wrw]; simp
    · rw [unpack_packFields_peekw, noData_eq_error]; simp
    · rw [unpack_packFields_sync, noData_eq_error]; simp
    · rw [unpack_packFields_of_six_le a d hk]; simp [hk]
  · exact iff_of_true ⟨_, unpack_of_pad hp⟩ (.inl hp)

end Sys2Proof
end

section
/-! PROOFS. The decoder on packed words and on operations (30_encoding.md R86, R88, R91): the selected behaviour satisfies its row's condition, and the condition with the operation decides the behaviour. -/

namespace Sys2Proof

theorem decodeWord_of_unpack {t : Packed} {o : Op} (cfg : Config) (h : unpack t = .ok o) :
    decodeWord cfg t = .ok (decode cfg o) := by
  simp only [decodeWord, h]

theorem decodeWord_of_error {t : Packed} {e : DecodeError} (cfg : Config) (h : unpack t = .error e) :
    decodeWord cfg t = .error e := by
  simp only [decodeWord, h]

theorem decodeWord_eq_ok {cfg : Config} {t : Packed} {i : Instr} (h : decodeWord cfg t = .ok i) :
    ∃ o, unpack t = .ok o ∧ decode cfg o = i := by
  cases hu : unpack t with
  | ok o => exact ⟨o, rfl, Except.ok.inj ((decodeWord_of_unpack cfg hu).symm.trans h)⟩
  | error e => simp [decodeWord, hu] at h

theorem Instr.op_eq_sync {i : Instr} {n : Nat} : i.op = .sync n ↔ i = .sync n := by
  cases i <;> simp [Instr.op]

/-- Every behaviour whose row's condition holds is the one its operation selects (R88). -/
theorem decode_op_of_wellFormed (i : Instr) : Laws.Selects.Statement i := by
  cases i with
  | rdbAciaSr a => exact Laws.Selects.rdbAciaSr a
  | rdbAciaDr a => exact Laws.Selects.rdbAciaDr a
  | rdbTmrSr a => exact Laws.Selects.rdbTmrSr a
  | rdbMem a => exact Laws.Selects.rdbMem a
  | wrbAciaDr a v => exact Laws.Selects.wrbAciaDr a v
  | wrbAciaCr a v => exact Laws.Selects.wrbAciaCr a v
  | wrbTmrRh a v => exact Laws.Selects.wrbTmrRh a v
  | wrbTmrRm a v => exact Laws.Selects.wrbTmrRm a v
  | wrbTmrRl a v => exact Laws.Selects.wrbTmrRl a v
  | wrbTmrCr a v => exact Laws.Selects.wrbTmrCr a v
  | wrbTmrSr a v => exact Laws.Selects.wrbTmrSr a v
  | wrbMem a v => exact Laws.Selects.wrbMem a v
  | rdwDev a => exact Laws.Selects.rdwDev a
  | rdwMem a => exact Laws.Selects.rdwMem a
  | wrwDev a w => exact Laws.Selects.wrwDev a w
  | wrwMem a w => exact Laws.Selects.wrwMem a w
  | peekwBoot b => exact Laws.Selects.peekwBoot b
  | peekwDev a => exact Laws.Selects.peekwDev a
  | peekwMem a => exact Laws.Selects.peekwMem a
  | sync n => exact Laws.Selects.sync n

/-- Settles O2: reading inverts packing, and a well-formed behaviour is the one its operation selects. -/
theorem decodeInvertsEncode : Obligations.DecodeInvertsEncode := by
  intro cfg i hc hi
  refine ⟨fun t ht => ?_, ?_⟩
  · rw [decodeWord_of_unpack cfg (unpack_of_pack ht), decode_op_of_wellFormed i cfg hc hi]
  · simp only [encode, Op.pack_eq_none, Instr.op_eq_sync]

/-- Settles O3: the decoded behaviour keeps the operation the word spells, and that operation's packed word is the
word. -/
theorem encodeInvertsDecode : Obligations.EncodeInvertsDecode := by
  intro cfg t i h
  obtain ⟨o, ho, rfl⟩ := decodeWord_eq_ok h
  rw [encode, decode_op]
  exact pack_of_unpack ho

/-- The condition of its row holds for the behaviour an operation selects (R88). -/
theorem decode_wellFormed (cfg : Config) (o : Op) : (decode cfg o).wellFormed cfg = true := by
  cases o with
  | rdb a =>
    simp only [decode, decodeRdb]
    split_ifs <;> simp [Instr.wellFormed, Config.rdAddrs, *]
  | wrb a v =>
    simp only [decode, decodeWrb]
    split_ifs <;> simp [Instr.wellFormed, Config.wrAddrs, *]
  | rdw a => simp only [decode, decodeRdw]; split_ifs with h <;> simp [Instr.wellFormed, h]
  | wrw a w => simp only [decode, decodeWrw]; split_ifs with h <;> simp [Instr.wellFormed, h]
  | sync n => rfl
  | peekw a =>
    simp only [decode, decodePeekw]
    cases hb : BootSlot.ofAddr? a with
    | some b => rfl
    | none =>
      have hboot := BootSlot.ofAddr?_eq_none.mp hb
      dsimp only
      split_ifs with h <;> simp [Instr.wellFormed, h, hboot]

/-- Settles O5: the decoded behaviour satisfies its row's condition and keeps its operation, and a behaviour whose
condition holds is the one its operation selects. -/
theorem everyOperationSelectsOneBehaviour : Obligations.EveryOperationSelectsOneBehaviour := by
  intro cfg o hc
  refine ⟨decode_wellFormed cfg o, decode_op cfg o, ?_⟩
  rintro i hi rfl
  exact (decode_op_of_wellFormed i cfg hc hi).symm

/-- Settles O1, by evaluation: the statement is about eight literal words. -/
theorem handWrittenWordsDecode : Obligations.HandWrittenWordsDecode := by
  unfold Obligations.HandWrittenWordsDecode
  decide

end Sys2Proof
end

section
/-! PROOFS. A step performs the next request (30_encoding.md R98), and the byte read of an unbound direction under the other setting of 93_implementation_defined.md U3. -/

namespace Sys2Proof.Machine

/-- Settles O9: `State.issue` takes the request off the trace and counts it. -/
theorem stepPerformsTheDecodedOperation : Obligations.StepPerformsTheDecodedOperation :=
  fun _ _ _ _ hs hw hp hd => step_of_decode hs hw hp hd

/-- Settles O18: off the read-side addresses the read is `RDB.MEM`, whose effect at a write-side one is the fatal
halt. -/
theorem unboundDirectionReadHaltsUnderTheOtherSetting :
    Obligations.UnboundDirectionReadHaltsUnderTheOtherSetting := by
  intro a s hs hu hwr hrd
  rw [decode_rdb_of_not_mem hrd, exec_of_running _ hs, effect_rdbMem_of_unbound ⟨hu, hwr⟩]
  rfl

end Sys2Proof.Machine
end

section
/-! PROOFS. The opcode table (30_encoding.md R99) and the decoder under `CFG_REF`: of the 41 rows only those of the
word's operation code count, each is the row of one address or of every address, and their priorities give the
decoder's order of tests. -/

namespace Sys2Proof.Machine

/-! Matching and selecting. -/

/-- A row matches a word where it matches each of the three fields. -/
theorem row_matches_iff_fields (t mask bits : BitVec 52) : t &&& mask = bits ↔
    t.extractLsb' 48 4 &&& mask.extractLsb' 48 4 = bits.extractLsb' 48 4 ∧
    t.extractLsb' 16 32 &&& mask.extractLsb' 16 32 = bits.extractLsb' 16 32 ∧
    t.extractLsb' 0 16 &&& mask.extractLsb' 0 16 = bits.extractLsb' 0 16 := by
  rw [word52_eq_iff, extractLsb'_and52, extractLsb'_and52, extractLsb'_and52]

theorem selectRow_eq_none {l : List TableRow} {t : BitVec 52} (h : ∀ r ∈ l, ¬ t &&& r.mask = r.bits) :
    selectRow l t = none := by
  induction l with
  | nil => rfl
  | cons r l ih =>
    obtain ⟨hr, hl⟩ := List.forall_mem_cons.mp h
    rw [selectRow, if_neg hr, ih hl]

theorem mem_of_selectRow_eq_some {l : List TableRow} {t : BitVec 52} {q : TableRow} (h : selectRow l t = some q) :
    q ∈ l := by
  induction l generalizing q with
  | nil => cases h
  | cons r l ih =>
    rw [selectRow] at h
    split at h
    · split at h
      · split at h <;> cases h
        · exact List.mem_cons_of_mem _ (ih ‹_›)
        · exact List.mem_cons_self
      · cases h; exact List.mem_cons_self
    · exact List.mem_cons_of_mem _ (ih h)

/-- A matching row is selected where no row after it has a higher priority. -/
theorem selectRow_cons_of_priority {r : TableRow} {l : List TableRow} (hl : ∀ q ∈ l, q.priority ≤ r.priority)
    (t : BitVec 52) : selectRow (r :: l) t = if t &&& r.mask = r.bits then some r else selectRow l t := by
  rw [selectRow]
  cases hq : selectRow l t with
  | none => rfl
  | some q =>
    have hle : ¬ r.priority < q.priority := Nat.not_lt.mpr (hl q (mem_of_selectRow_eq_some hq))
    simp only [hle, if_false]

/-- Only the rows of the word's operation code can be selected. -/
theorem selectRow_filter_opCode {l : List TableRow} (hl : ∀ r ∈ l, r.mask.extractLsb' 48 4 = 15#4) {t : BitVec 52}
    {k : BitVec 4} (hk : t.extractLsb' 48 4 = k) :
    selectRow l t = selectRow (l.filter fun r => r.bits.extractLsb' 48 4 == k) t := by
  induction l with
  | nil => rfl
  | cons r l ih =>
    obtain ⟨hr, hl⟩ := List.forall_mem_cons.mp hl
    by_cases hrk : r.bits.extractLsb' 48 4 = k
    · rw [List.filter_cons_of_pos (by simp [hrk]), selectRow, selectRow, ih hl]
    · rw [List.filter_cons_of_neg (by simp [hrk]), ← ih hl, selectRow, if_neg]
      intro hm
      obtain ⟨hop, -, -⟩ := (row_matches_iff_fields _ _ _).mp hm
      rw [hr, hk] at hop
      exact hrk (hop.symm.trans BitVec.and_allOnes)

/-! The word `T` by its fields, and the two shapes of a row. -/

/-- The 52 bits of `T` (R83): operation code, address, data. -/
def tWord (k : BitVec 4) (a : Addr) (d : Word) : BitVec 52 := k ++ a ++ d

theorem tWord_opCode (k : BitVec 4) (a : Addr) (d : Word) : (tWord k a d).extractLsb' 48 4 = k :=
  (fields_of_append k a d).1

theorem tWord_addr (k : BitVec 4) (a : Addr) (d : Word) : (tWord k a d).extractLsb' 16 32 = a :=
  (fields_of_append k a d).2.1

theorem tWord_data (k : BitVec 4) (a : Addr) (d : Word) : (tWord k a d).extractLsb' 0 16 = d :=
  (fields_of_append k a d).2.2

/-- Every 52-bit word is its three fields. -/
theorem eq_tWord (t : BitVec 52) : ∃ k a d, t = tWord k a d :=
  ⟨_, _, _, (word52_eq_iff _ _).mpr ⟨(tWord_opCode _ _ _).symm, (tWord_addr _ _ _).symm, (tWord_data _ _ _).symm⟩⟩

/-- A row of the word's operation code matches where the address and the data match. -/
theorem tWord_and_eq_iff {k : BitVec 4} {a ma ba : Addr} {d md bd : Word} :
    tWord k a d &&& tWord 15 ma md = tWord k ba bd ↔ a &&& ma = ba ∧ d &&& md = bd :=
  Iff.of_eq (row_matches_iff ma ba md bd rfl rfl (tWord_opCode k a d) (tWord_addr k a d) (tWord_data k a d))

/-- The packed word is `T` under its four pad bits. -/
theorem pad_append_tWord (k : BitVec 4) (a : Addr) (d : Word) : (0 : BitVec 4) ++ tWord k a d = packFields k a d := by
  have hpad : ((0 : BitVec 4) ++ tWord k a d : Packed).extractLsb' 52 4 = 0 := BitVec.extractLsb'_append_eq_left
  have hfield (i n : Nat) (h : i + n ≤ 52) :
      ((0 : BitVec 4) ++ tWord k a d : Packed).extractLsb' i n = (tWord k a d).extractLsb' i n :=
    BitVec.extractLsb'_append_eq_of_add_le h
  rw [packed_eq_fields _ hpad, Packed.opCode, Packed.addr, Packed.data, hfield 48 4 (by decide),
    hfield 16 32 (by decide), hfield 0 16 (by decide), tWord_opCode, tWord_addr, tWord_data]

/-- The row of one address: the operation code, the address, and the data bits under `dm` zero. -/
def addrRow (k : BitVec 4) (dm : Word) (p n : Nat) (x : Addr) : TableRow :=
  ⟨n, tWord k x 0, tWord 15 (BitVec.allOnes 32) dm, p⟩

/-- The row of every address, of the lowest priority. -/
def anyAddrRow (k : BitVec 4) (dm : Word) (n : Nat) : TableRow :=
  ⟨n, tWord k 0 0, tWord 15 0 dm, 1⟩

/-- The behaviour number of the selected row. -/
def selectNumber (l : List TableRow) (t : BitVec 52) : Option Nat := (selectRow l t).map (·.behaviour)

section
variable {k : BitVec 4} {d dm : Word} {p n : Nat} {l : List TableRow} (hd : d &&& dm = 0) (a : Addr)
include hd

theorem selectNumber_addrRow_cons (x : Addr) (hl : ∀ q ∈ l, q.priority ≤ p) :
    selectNumber (addrRow k dm p n x :: l) (tWord k a d) =
      if a = x then some n else selectNumber l (tWord k a d) := by
  have hm : tWord k a d &&& (addrRow k dm p n x).mask = (addrRow k dm p n x).bits ↔ a = x := by
    rw [addrRow, tWord_and_eq_iff, BitVec.and_allOnes]
    exact and_iff_left hd
  rw [selectNumber, selectRow_cons_of_priority hl]
  simp only [hm]
  split <;> rfl

theorem selectNumber_addrRows_append (xs : List Addr) (hl : ∀ q ∈ l, q.priority ≤ p) :
    selectNumber (xs.map (addrRow k dm p n) ++ l) (tWord k a d) =
      if a ∈ xs then some n else selectNumber l (tWord k a d) := by
  induction xs with
  | nil => simp
  | cons x xs ih =>
    rw [List.map_cons, List.cons_append, selectNumber_addrRow_cons hd, ih]
    · by_cases hx : a = x <;> simp [hx]
    · simp only [List.forall_mem_append, List.forall_mem_map]
      exact ⟨fun _ _ => le_rfl, hl⟩

theorem selectNumber_anyAddrRow : selectNumber [anyAddrRow k dm n] (tWord k a d) = some n := by
  have hm : tWord k a d &&& (anyAddrRow k dm n).mask = (anyAddrRow k dm n).bits :=
    tWord_and_eq_iff.mpr ⟨BitVec.and_zero, hd⟩
  rw [selectNumber, selectRow, if_pos hm]
  rfl

end

/-- No row is selected where each asks for zero data bits that the word has set. -/
theorem selectNumber_eq_none {l : List TableRow} {k : BitVec 4} {a : Addr} {d dm : Word}
    (hl : ∀ r ∈ l, r.mask.extractLsb' 0 16 = dm ∧ r.bits.extractLsb' 0 16 = 0) (hd : d &&& dm ≠ 0) :
    selectNumber l (tWord k a d) = none := by
  rw [selectNumber, selectRow_eq_none]
  · rfl
  · intro r hr hm
    obtain ⟨-, -, hdata⟩ := (row_matches_iff_fields _ _ _).mp hm
    obtain ⟨hmask, hbits⟩ := hl r hr
    rw [tWord_data, hmask, hbits] at hdata
    exact hd hdata

/-- Only the rows of the word's operation code can be selected from the table. -/
theorem selectNumber_opcodeTable {k : BitVec 4} {rows : List TableRow}
    (hrows : opcodeTable.filter (fun r => r.bits.extractLsb' 48 4 == k) = rows) (a : Addr) (d : Word) :
    selectNumber opcodeTable (tWord k a d) = selectNumber rows (tWord k a d) := by
  rw [selectNumber, selectRow_filter_opCode (by decide) (tWord_opCode k a d), hrows, selectNumber]

/-! What the rows of each operation select: each table's rows, written in the two shapes, stand in the order of the
decoder's tests. -/

/-- The device addresses of `CFG_REF`, in the order of the table's rows. -/
def refPorts : List Addr := [0x10021, 0x10027, 0x10029, 0x1002B, 0x10035, 0x10040, 0x10042]

theorem mem_deviceAddrs_CFG_REF {a : Addr} : a ∈ Config.CFG_REF.deviceAddrs ↔ a ∈ refPorts := by
  simp only [Config.deviceAddrs, Config.rdAddrs, Config.wrAddrs, Config.CFG_REF, refPorts, List.mem_append,
    List.mem_cons]
  tauto

section
variable (a : Addr) {d : Word}

theorem selectNumber_rowsRdb (hd : d &&& 0xFFFF = 0) :
    selectNumber rowsRdb (tWord 0 a d) = some (behaviourNumber (decodeRdb Config.CFG_REF a)) := by
  have hrows : rowsRdb = [addrRow 0 0xFFFF 2 1 0x10040, addrRow 0 0xFFFF 2 2 0x10042, addrRow 0 0xFFFF 2 3 0x10035,
    anyAddrRow 0 0xFFFF 4] := by decide
  rw [hrows]
  simp (disch := decide) only [selectNumber_addrRow_cons hd, selectNumber_anyAddrRow hd, decodeRdb,
    apply_ite behaviourNumber, apply_ite some]
  rfl

theorem selectNumber_rowsWrb (v : Byte) (hd : d &&& 0xFF00 = 0) :
    selectNumber rowsWrb (tWord 2 a d) = some (behaviourNumber (decodeWrb Config.CFG_REF a v)) := by
  have hrows : rowsWrb = [addrRow 2 0xFF00 2 5 0x10042, addrRow 2 0xFF00 2 6 0x10040, addrRow 2 0xFF00 2 7 0x10027,
    addrRow 2 0xFF00 2 8 0x10029, addrRow 2 0xFF00 2 9 0x1002B, addrRow 2 0xFF00 2 10 0x10021,
    addrRow 2 0xFF00 2 11 0x10035, anyAddrRow 2 0xFF00 12] := by decide
  rw [hrows]
  simp (disch := decide) only [selectNumber_addrRow_cons hd, selectNumber_anyAddrRow hd, decodeWrb,
    apply_ite behaviourNumber, apply_ite some]
  rfl

theorem selectNumber_rowsRdw (hd : d &&& 0xFFFF = 0) :
    selectNumber rowsRdw (tWord 1 a d) = some (behaviourNumber (decodeRdw Config.CFG_REF a)) := by
  have hrows : rowsRdw = refPorts.map (addrRow 1 0xFFFF 2 13) ++ [anyAddrRow 1 0xFFFF 14] := by decide
  rw [hrows, selectNumber_addrRows_append hd _ _ (by decide), selectNumber_anyAddrRow hd, decodeRdw]
  simp only [mem_deviceAddrs_CFG_REF]
  split_ifs <;> rfl

theorem selectNumber_rowsWrw (d : Word) :
    selectNumber rowsWrw (tWord 3 a d) = some (behaviourNumber (decodeWrw Config.CFG_REF a d)) := by
  have hrows : rowsWrw = refPorts.map (addrRow 3 0 2 15) ++ [anyAddrRow 3 0 16] := by decide
  have hd : d &&& 0 = 0 := BitVec.and_zero
  rw [hrows, selectNumber_addrRows_append hd _ _ (by decide), selectNumber_anyAddrRow hd, decodeWrw]
  simp only [mem_deviceAddrs_CFG_REF]
  split_ifs <;> rfl

theorem selectNumber_rowsPeekw (hd : d &&& 0xFFFF = 0) :
    selectNumber rowsPeekw (tWord 4 a d) = some (behaviourNumber (decodePeekw Config.CFG_REF a)) := by
  have hrows : rowsPeekw = Config.BOOT_ADDRS.map (addrRow 4 0xFFFF 3 17) ++
    (refPorts.map (addrRow 4 0xFFFF 2 18) ++ [anyAddrRow 4 0xFFFF 19]) := by decide
  rw [hrows, selectNumber_addrRows_append hd _ _ (by decide), selectNumber_addrRows_append hd _ _ (by decide),
    selectNumber_anyAddrRow hd, decodePeekw]
  cases hb : BootSlot.ofAddr? a with
  | some b =>
    have hmem : b.addr ∈ Config.BOOT_ADDRS := by cases b <;> decide
    rw [BootSlot.ofAddr?_eq_some.mp hb, if_pos hmem]
    rfl
  | none =>
    rw [if_neg (BootSlot.ofAddr?_eq_none.mp hb)]
    simp only [mem_deviceAddrs_CFG_REF]
    split_ifs <;> rfl

theorem selectNumber_rowsSync (hd : d &&& 0xFFFF = 0) : selectNumber rowsSync (tWord 5 a d) = some 20 := by
  have hrows : rowsSync = [anyAddrRow 5 0xFFFF 20] := by decide
  rw [hrows, selectNumber_anyAddrRow hd]

end

/-- Bits 15:8 of a data field are zero exactly where the table's mask for `WRB` finds nothing set. -/
theorem and_hiMask_eq_zero {d : Word} : d &&& 0xFF00 = 0 ↔ d.extractLsb' 8 8 = 0 := by
  constructor
  · intro h
    have hhi := congrArg (BitVec.extractLsb' 8 8) h
    rw [BitVec.extractLsb'_and] at hhi
    exact BitVec.and_allOnes.symm.trans hhi
  · intro h
    have hlo : ∀ v : Byte, v.setWidth 16 &&& 0xFF00 = 0 := by decide
    rw [eq_setWidth_of_hi_zero h]
    exact hlo _

/-! The decoder's side of the comparison. -/

/-- The number of the behaviour a packed word selects under `CFG_REF`. -/
def wordNumber (w : Packed) : Option Nat :=
  match decodeWord Config.CFG_REF w with
  | .ok i => some (behaviourNumber i)
  | .error _ => none

theorem wordNumber_of_ok {w : Packed} {o : Op} (h : unpack w = .ok o) :
    wordNumber w = some (behaviourNumber (decode Config.CFG_REF o)) := by
  rw [wordNumber, decodeWord_of_unpack _ h]

theorem wordNumber_of_error {w : Packed} {e : DecodeError} (h : unpack w = .error e) : wordNumber w = none := by
  rw [wordNumber, decodeWord_of_error _ h]

section
variable {w : Packed} {k : BitVec 4} {a : Addr} {d : Word} {rows : List TableRow}

/-- A format A or N word is refused, and its rows match nothing, where its data field is not zero. -/
theorem wordNumber_eq_of_noData {o : Op} (hu : unpack w = noData d o)
    (hrows : ∀ r ∈ rows, r.mask.extractLsb' 0 16 = 0xFFFF ∧ r.bits.extractLsb' 0 16 = 0)
    (hs : d &&& 0xFFFF = 0 → selectNumber rows (tWord k a d) = some (behaviourNumber (decode Config.CFG_REF o))) :
    wordNumber w = selectNumber rows (tWord k a d) := by
  have hmask : d &&& 0xFFFF = d := BitVec.and_allOnes
  by_cases hd : d = 0
  · rw [hs (hmask.trans hd)]
    exact wordNumber_of_ok (hu.trans (noData_eq_ok.mpr ⟨hd, rfl⟩))
  · obtain ⟨e, he⟩ := noData_eq_error.mpr hd
    rw [selectNumber_eq_none hrows fun h => hd (hmask.symm.trans h)]
    exact wordNumber_of_error (hu.trans he)

/-- The same for `WRB`, whose data field holds a byte. -/
theorem wordNumber_eq_of_byteData (hu : unpack w = byteData a d)
    (hrows : ∀ r ∈ rows, r.mask.extractLsb' 0 16 = 0xFF00 ∧ r.bits.extractLsb' 0 16 = 0)
    (hs : ∀ v, d &&& 0xFF00 = 0 →
      selectNumber rows (tWord k a d) = some (behaviourNumber (decode Config.CFG_REF (.wrb a v)))) :
    wordNumber w = selectNumber rows (tWord k a d) := by
  by_cases hd : d.extractLsb' 8 8 = 0
  · rw [hs _ (and_hiMask_eq_zero.mpr hd)]
    exact wordNumber_of_ok (hu.trans (byteData_eq_ok.mpr ⟨hd, rfl⟩))
  · obtain ⟨e, he⟩ := byteData_eq_error.mpr hd
    rw [selectNumber_eq_none hrows (mt and_hiMask_eq_zero.mp hd)]
    exact wordNumber_of_error (hu.trans he)

end

/-- For each operation code, the table's rows of that code select what the decoder does. -/
theorem wordNumber_eq_selectNumber (k : BitVec 4) (a : Addr) (d : Word) :
    wordNumber (packFields k a d) = selectNumber opcodeTable (tWord k a d) := by
  obtain rfl | rfl | rfl | rfl | rfl | rfl | hk := opCode_cases k
  · rw [selectNumber_opcodeTable (rows := rowsRdb) (by decide)]
    exact wordNumber_eq_of_noData (unpack_packFields_rdb a d) (by decide) (selectNumber_rowsRdb a)
  · rw [selectNumber_opcodeTable (rows := rowsRdw) (by decide)]
    exact wordNumber_eq_of_noData (unpack_packFields_rdw a d) (by decide) (selectNumber_rowsRdw a)
  · rw [selectNumber_opcodeTable (rows := rowsWrb) (by decide)]
    exact wordNumber_eq_of_byteData (unpack_packFields_wrb a d) (by decide) (selectNumber_rowsWrb a)
  · rw [selectNumber_opcodeTable (rows := rowsWrw) (by decide), selectNumber_rowsWrw]
    exact wordNumber_of_ok (unpack_packFields_wrw a d)
  · rw [selectNumber_opcodeTable (rows := rowsPeekw) (by decide)]
    exact wordNumber_eq_of_noData (unpack_packFields_peekw a d) (by decide) (selectNumber_rowsPeekw a)
  · rw [selectNumber_opcodeTable (rows := rowsSync) (by decide)]
    exact wordNumber_eq_of_noData (unpack_packFields_sync a d) (by decide) (selectNumber_rowsSync a)
  · have hrows : ∀ k : BitVec 4, 6 ≤ k.toNat →
        opcodeTable.filter (fun r => r.bits.extractLsb' 48 4 == k) = [] := by decide
    rw [selectNumber_opcodeTable (hrows k hk), wordNumber_of_error (unpack_packFields_of_six_le a d hk)]
    rfl

/-- Settles O4: a word is its three fields, and for each operation code the rows select what the decoder does. -/
theorem decoderAgreesWithOpcodeTable : Obligations.DecoderAgreesWithOpcodeTable := by
  intro t
  obtain ⟨k, a, d, rfl⟩ := eq_tWord t
  rw [pad_append_tWord]
  exact wordNumber_eq_selectNumber k a d

end Sys2Proof.Machine
end

section
/-! PROOFS. The memory-bus multiplexer (40_bus_memory_ops.md R110 to R120): when an operation at a device address and a peek select the behaviours of the bus, and the whole next state of each. -/

namespace Sys2Proof

theorem decode_rdw_of_mem {cfg : Config} {a : Addr} (h : a ∈ cfg.deviceAddrs) :
    decode cfg (.rdw a) = .rdwDev a :=
  if_pos h

theorem decode_wrw_of_mem {cfg : Config} {a : Addr} (w : Word) (h : a ∈ cfg.deviceAddrs) :
    decode cfg (.wrw a w) = .wrwDev a w :=
  if_pos h

/-- A peek at a bootstrap address is `PEEKW.BOOT` under every configuration: that test is the first (R90). -/
theorem decode_peekw_bootAddr (cfg : Config) (b : BootSlot) : decode cfg (.peekw b.addr) = .peekwBoot b := by
  have hb : BootSlot.ofAddr? b.addr = some b := BootSlot.ofAddr?_eq_some.mpr rfl
  simp only [decode, decodePeekw, hb]

/-- A peek beside the bootstrap addresses asks only whether a device stands at its address (R88). -/
theorem decode_peekw_of_not_boot {cfg : Config} {a : Addr} (h : a ∉ Config.BOOT_ADDRS) :
    decode cfg (.peekw a) = if a ∈ cfg.deviceAddrs then .peekwDev a else .peekwMem a := by
  simp only [decode, decodePeekw, BootSlot.ofAddr?_eq_none.mpr h]

namespace Machine

/-- A peek at a bootstrap address returns the configured word; the image is not consulted (R118). -/
theorem exec_peekw_bootAddr {s : State} (hs : s.halted = false) (b : BootSlot) :
    exec (decode s.cfg (.peekw b.addr)) s = .next (s.returnRead (.word (bootWord s.cfg b))) := by
  rw [decode_peekw_bootAddr]
  exact exec_of_running _ hs

/-- All that a peek can do: return a word, or halt the block at a device address (R117 to R119). -/
theorem effect_peekw_cases (a : Addr) (s : State) :
    (∃ w, effect (decode s.cfg (.peekw a)) s = s.returnRead (.word w)) ∨
    (a ∈ s.cfg.deviceAddrs ∧ effect (decode s.cfg (.peekw a)) s = s.raiseFatal .F_PEEK_DEVICE a none) := by
  obtain ⟨b, hd⟩ | ⟨ha, hd⟩ | ⟨-, hd⟩ := decode_peekw_cases s.cfg a <;> rw [hd]
  · exact .inl ⟨_, rfl⟩
  · exact .inr ⟨ha, rfl⟩
  · exact .inl ⟨_, rfl⟩

/-- Settles O43: a returned word changes `results` alone, and the other case is the fatal halt at a device. -/
theorem peekHasNoSideEffect : Obligations.PeekHasNoSideEffect := by
  intro a s t h
  obtain ⟨hs, rfl⟩ := exec_eq_next.mp h
  obtain ⟨w, hw⟩ | ⟨ha, hf⟩ := effect_peekw_cases a s
  · rw [hw]
    exact ⟨rfl, fun ht => absurd ht (by simp [hs])⟩
  · rw [hf]
    exact ⟨rfl, fun _ => ⟨ha, rfl, rfl⟩⟩

/-- Settles O12: the premise excludes the fatal branch of `RDB.MEM`. -/
theorem rdbMemReturnsTheImageByte : Obligations.RdbMemReturnsTheImageByte := by
  intro a s hs hplain
  have hu : ¬ (s.cfg.UNBOUND_DIR_FATAL = true ∧ a ∈ s.cfg.wrAddrs) := fun ⟨hu, ha⟩ => by simp [hu, ha] at hplain
  refine ⟨decode_rdb_of_not_mem, ?_⟩
  rw [exec_of_running _ hs, effect_rdbMem_of_plain hu]
  rfl

/-- Settles O13: both word reads return `MemRead(a, 2)`. -/
theorem wordReadsReturnTheImageWord : Obligations.WordReadsReturnTheImageWord := by
  intro a s hs
  refine ⟨decode_rdw_of_not_mem, fun hb ha => ?_, exec_of_running _ hs, rfl⟩
  rw [decode_peekw_of_not_boot hb, if_neg ha]

/-- Settles O14: the next state is `MemWrite(a, 1, v)`, and a store changes the byte at its own index alone. -/
theorem wrbMemStoresOneByte : Obligations.WrbMemStoresOneByte := by
  intro a v s hs hwf
  exact ⟨decode_wrb_of_not_mem v, s.memWrite1 a v, exec_of_running _ hs, rfl, memWrite1_byteAt_eq hwf a v,
    fun _ hj => memWrite1_byteAt_ne s a v hj⟩

/-- Settles O15: the next state is `MemWrite(a, 2, w)`, whose two indexes differ. -/
theorem wrwMemStoresTheWordBigEndian : Obligations.WrwMemStoresTheWordBigEndian := by
  intro a w s hs hwf
  exact ⟨decode_wrw_of_not_mem w, s.memWrite2 a w, exec_of_running _ hs, rfl, memWrite2_byteAt_hi hwf a w,
    memWrite2_byteAt_lo hwf a w, fun _ hhi hlo => memWrite2_byteAt_ne s a w hhi hlo⟩

/-- Settles O16: the decoder sends each misuse to its fatal behaviour, and the effect of each is `raiseFatal`. -/
theorem deviceMisuseHaltsTheBlock : Obligations.DeviceMisuseHaltsTheBlock := by
  intro a w s hs
  refine ⟨fun ha => ⟨decode_rdw_of_mem ha, decode_wrw_of_mem w ha, fun hb => ?_⟩, fun hc ha => ?_,
    exec_of_running _ hs, exec_of_running _ hs, exec_of_running _ hs, exec_of_running _ hs⟩
  · rw [decode_peekw_of_not_boot hb, if_pos ha]
  · exact Laws.Selects.rdbAciaDr a s.cfg hc (beq_iff_eq.mpr ha)

/-- Settles O17: the four addresses are those of the bootstrap slots. -/
theorem peekAtTheResetVectorReturnsTheConfiguredWords :
    Obligations.PeekAtTheResetVectorReturnsTheConfiguredWords := by
  intro s hs
  refine ⟨exec_peekw_bootAddr hs .at0, exec_peekw_bootAddr hs .at2, exec_peekw_bootAddr hs .at4,
    exec_peekw_bootAddr hs .at6, fun slot => ?_⟩
  rw [decode_peekw_bootAddr]

end Machine

end Sys2Proof
end

section
/-! PROOFS. The serial port (41_serial_port.md R132 to R139): which operation selects each port's behaviour, its whole next state, and that no behaviour but the control write depends on the enable. -/

namespace Sys2Proof

/-- The status port is the first that a byte read is matched against, so no other port can shadow it (R88). -/
theorem decode_rdb_aciaSr {cfg : Config} {a : Addr} (h : a = cfg.A_ACIA_SR_RD) :
    decode cfg (.rdb a) = .rdbAciaSr a :=
  if_pos h

/-- The data port is the first that a byte write is matched against, so no other port can shadow it (R88). -/
theorem decode_wrb_aciaDr {cfg : Config} {a : Addr} (v : Byte) (h : a = cfg.A_ACIA_DR_WR) :
    decode cfg (.wrb a v) = .wrbAciaDr a v :=
  if_pos h

namespace Machine

/-- The whole byte is compared with the magic value (R138). -/
theorem isEnableMagic_eq_decide (cfg : Config) (v : Byte) :
    isEnableMagic cfg v = decide (v = cfg.ACIA_ENABLE_MAGIC) :=
  beq_eq_decide v _

/-- The interrupt request neither reads nor writes the serial enable. -/
theorem requestIfEnabled_setAciaEnabled (s : State) (b : Bool) :
    (s.setAciaEnabled b).requestIfEnabled = s.requestIfEnabled.setAciaEnabled b := by
  unfold State.requestIfEnabled
  rw [apply_ite (State.setAciaEnabled · b)]
  rfl

/-- Steps (b) and (c) of cycle-sync neither read nor write the serial enable. -/
theorem tickAndReload_setAciaEnabled (s : State) (b : Bool) (p : Int) :
    (s.setAciaEnabled b).tickAndReload p = (s.tickAndReload p).setAciaEnabled b := by
  unfold State.tickAndReload
  rw [apply_ite (State.setAciaEnabled · b), ← requestIfEnabled_setAciaEnabled]
  rfl

/-- `SYNC` neither reads nor writes the serial enable, under either setting of `SYNC_GATE`. -/
theorem effect_sync_setAciaEnabled (n : Nat) (s : State) (b : Bool) :
    effect (.sync n) (s.setAciaEnabled b) = (effect (.sync n) s).setAciaEnabled b := by
  obtain ⟨hg, he, h⟩ | ⟨hg, h⟩ := effect_sync n s
  · rw [h]
    simp [effect, hg, he]
  · obtain ⟨hg', he', -⟩ | ⟨-, h'⟩ := effect_sync n (s.setAciaEnabled b)
    · exact absurd ⟨hg', he'⟩ hg
    · rw [h, h']
      exact tickAndReload_setAciaEnabled s b _

/-- A behaviour other than the serial control write neither reads nor writes the serial enable (R139). -/
theorem effect_setAciaEnabled {i : Instr} (hi : ∀ a v, i ≠ .wrbAciaCr a v) (s : State) (b : Bool) :
    effect i (s.setAciaEnabled b) = (effect i s).setAciaEnabled b := by
  cases hr : isRead i with
  | true =>
    obtain ⟨r, h⟩ | ⟨code, a, w, h⟩ := effect_read_of_sameInputs hr s
    · rw [h s (.refl i s), h (s.setAciaEnabled b) ⟨rfl, fun _ _ => rfl⟩]; rfl
    · rw [h s (.refl i s), h (s.setAciaEnabled b) ⟨rfl, fun _ _ => rfl⟩]; rfl
  | false =>
    cases i with
    | wrbAciaCr a v => exact absurd rfl (hi a v)
    | wrbAciaDr _ _ | wrbTmrRh _ _ | wrbTmrRm _ _ | wrbTmrRl _ _ | wrbTmrCr _ _ | wrbMem _ _ | wrwDev _ _
    | wrwMem _ _ => rfl
    | wrbTmrSr _ _ =>
      simp only [effect_wrbTmrSr]
      split <;> rfl
    | sync n => exact effect_sync_setAciaEnabled n s b
    | rdbAciaSr _ | rdbAciaDr _ | rdbTmrSr _ | rdbMem _ | rdwDev _ | rdwMem _ | peekwBoot _ | peekwDev _
    | peekwMem _ => cases hr

/-- Settles O44: writing the enable commutes with the effect of every behaviour but the control write. -/
theorem serialEnableIsUnobservable : Obligations.SerialEnableIsUnobservable := by
  intro i s t b hi h
  obtain ⟨hs, rfl⟩ := exec_eq_next.mp h
  exact exec_eq_next.mpr ⟨hs, effect_setAciaEnabled hi s b⟩

/-- Settles O20: the status read returns the configured byte. -/
theorem serialStatusReadReturnsTheReadyByte : Obligations.SerialStatusReadReturnsTheReadyByte := by
  intro a s hs
  exact ⟨decode_rdb_aciaSr, exec_of_running _ hs⟩

/-- Settles O21: the data write is `Tx(v)`. -/
theorem serialDataWriteTransmitsTheByte : Obligations.SerialDataWriteTransmitsTheByte := by
  intro a v s hs
  exact ⟨decode_wrb_aciaDr v, exec_of_running _ hs⟩

/-- Settles O22: the control port is matched after the data port, so its clause needs the write-side addresses to
be distinct. -/
theorem serialControlWriteComparesTheWholeByte : Obligations.SerialControlWriteComparesTheWholeByte := by
  intro a v s hs
  refine ⟨fun hc ha => Laws.Selects.wrbAciaCr a v s.cfg hc (beq_iff_eq.mpr ha), ?_⟩
  rw [← isEnableMagic_eq_decide]
  exact exec_of_running _ hs

end Machine

end Sys2Proof
end

section
/-! PROOFS. Cycle-sync (42_interval_timer.md R155 to R162): what each of its steps does to the two counts, and what
one `SYNC` leaves. -/

namespace Sys2Proof.Machine

/-! Step (a). -/

/-- Step (a) never raises the prescaler. -/
theorem countCycles_le (e : Bool) (p : Int) (n : Nat) : countCycles e p n ≤ p := by
  unfold countCycles
  split <;> omega

/-- Step (a) on an enabled timer counts the cycles off a prescaler that is not negative. -/
theorem countCycles_true {p : Int} (hp : 0 ≤ p) (n : Nat) : countCycles true p n = p - n :=
  if_pos ⟨rfl, hp⟩

/-- A disabled timer counts no cycles. -/
theorem countCycles_false (p : Int) (n : Nat) : countCycles false p n = p :=
  if_neg fun h => nomatch h.1

/-- A negative prescaler discards the cycles (R160). -/
theorem countCycles_of_neg (e : Bool) {p : Int} (hp : p < 0) (n : Nat) : countCycles e p n = p :=
  if_neg fun h => by omega

/-- Step (a) takes off at most `n`, and only from a prescaler that is not negative. -/
theorem le_countCycles (e : Bool) (p : Int) (n : Nat) : min p (-n) ≤ countCycles e p n := by
  unfold countCycles
  split <;> omega

/-! Step (b). -/

theorem tickPrescaler_of_neg {p : Int} (hp : p < 0) : tickPrescaler p = p + 32 := if_pos hp

theorem tickPrescaler_of_nonneg {p : Int} (hp : 0 ≤ p) : tickPrescaler p = p := if_neg (by omega)

theorem tickCounter_of_neg {p : Int} (hp : p < 0) (c : Int) : tickCounter p c = c - 1 := if_pos hp

theorem tickCounter_of_nonneg {p : Int} (hp : 0 ≤ p) (c : Int) : tickCounter p c = c := if_neg (by omega)

/-- Only a negative prescaler gets 32 back, so step (b) keeps it at 31 or below (R162). -/
theorem tickPrescaler_le {p : Int} (hp : p ≤ 31) : tickPrescaler p ≤ 31 := by
  rcases lt_or_ge p 0 with h | h
  · rw [tickPrescaler_of_neg h]; omega
  · rwa [tickPrescaler_of_nonneg h]

/-- Step (b) lowers the counter by at most one. -/
theorem tickCounter_bounds (p c : Int) : c - 1 ≤ tickCounter p c ∧ tickCounter p c ≤ c := by
  unfold tickCounter
  split <;> omega

/-! Steps (b) and (c), and the whole `SYNC`. -/

@[simp] theorem tickAndReload_prescaler (s : State) (p : Int) :
    (s.tickAndReload p).prescaler = tickPrescaler p := by
  obtain ⟨-, -, h⟩ | ⟨-, -, h⟩ | ⟨-, h⟩ := tickAndReload_cases s p <;> rw [h] <;> rfl

/-- The counter ends at the reload value or at the positive count step (b) left (R164). -/
theorem tickAndReload_counter (s : State) (p : Int) :
    (s.tickAndReload p).counter = s.reload.toNat ∨
    (0 < (s.tickAndReload p).counter ∧ (s.tickAndReload p).counter = tickCounter p s.counter) := by
  obtain ⟨-, -, h⟩ | ⟨-, -, h⟩ | ⟨hc, h⟩ := tickAndReload_cases s p <;> rw [h]
  · exact .inl rfl
  · exact .inl rfl
  · exact .inr ⟨hc, rfl⟩

/-- No reload event while the counter stays above 0. -/
theorem tickAndReload_of_pos {s : State} {p : Int} (h : 0 < tickCounter p s.counter) :
    s.tickAndReload p = s.setCounts (tickPrescaler p) (tickCounter p s.counter) := by
  obtain ⟨hc, -⟩ | ⟨hc, -⟩ | ⟨-, ht⟩ := tickAndReload_cases s p
  · omega
  · omega
  · exact ht

/-- A reload event of an enabled timer drives level 5. -/
theorem tickAndReload_of_nonpos {s : State} {p : Int} (he : s.tmr_enabled = true)
    (h : tickCounter p s.counter ≤ 0) :
    s.tickAndReload p = (s.setCounts (tickPrescaler p) s.reload.toNat).setIPL Config.TMR_IRQ_LEVEL := by
  obtain ⟨-, -, ht⟩ | ⟨-, hd, -⟩ | ⟨hc, -⟩ := tickAndReload_cases s p
  · exact ht
  · simp [he] at hd
  · omega

/-- Under the setting `literal`, and on an enabled timer under either, a `SYNC` is cycle-sync (U4). -/
theorem effect_sync_of_ungated {s : State} (h : s.cfg.SYNC_GATE = .literal ∨ s.tmr_enabled = true) (n : Nat) :
    effect (.sync n) s = s.cycleSync n := by
  obtain ⟨hg, he, -⟩ | ⟨-, ht⟩ := effect_sync n s
  · simp [hg, he] at h
  · exact ht

/-- Settles O28: `p` is what step (a) leaves and `c` what step (b) leaves; the three cases are those of step (c). -/
theorem syncFollowsThePseudocode : Obligations.SyncFollowsThePseudocode := by
  intro n s hs hg p c hp hc
  obtain rfl : p = countCycles s.tmr_enabled s.prescaler n := hp
  obtain rfl : c = tickCounter (countCycles s.tmr_enabled s.prescaler n) s.counter := hc
  rw [exec_of_running _ hs, effect_sync_of_ungated (.inl hg), State.cycleSync]
  obtain ⟨hc, he, h⟩ | ⟨hc, he, h⟩ | ⟨hc, h⟩ :=
    tickAndReload_cases s (countCycles s.tmr_enabled s.prescaler n) <;> rw [h]
  · rw [if_pos hc, if_pos he]; rfl
  · rw [if_pos hc, if_neg (by simp [he])]; rfl
  · rw [if_neg (by omega)]; rfl

/-- Settles O31: no cycle is counted, so there is no tick, and the counter stays above 0. -/
theorem disabledTimerIsFrozen : Obligations.DisabledTimerIsFrozen := by
  intro n s hs he hp hc
  rw [exec_of_running _ hs]
  obtain ⟨-, -, h⟩ | ⟨-, h⟩ := effect_sync n s <;> rw [h]
  have hcount : tickCounter s.prescaler s.counter = s.counter := tickCounter_of_nonneg hp _
  rw [State.cycleSync, he, countCycles_false, tickAndReload_of_pos (hcount.symm ▸ hc), hcount,
    tickPrescaler_of_nonneg hp]
  rfl

/-- Settles O32: step (a) leaves a negative prescaler alone, whatever `n` is, and step (b) ticks. -/
theorem negativePrescalerDiscardsTheCycles : Obligations.NegativePrescalerDiscardsTheCycles := by
  intro n m s hs hp hgate
  have hsync : ∀ k, exec (.sync k) s = .next (s.tickAndReload s.prescaler) := fun k => by
    rw [exec_of_running _ hs, effect_sync_of_ungated hgate, State.cycleSync, countCycles_of_neg _ hp]
  refine ⟨(hsync n).trans (hsync m).symm, _, hsync n, ?_, fun hc => ?_⟩
  · rw [tickAndReload_prescaler, tickPrescaler_of_neg hp]
  · have hcount : tickCounter s.prescaler s.counter = s.counter - 1 := tickCounter_of_neg hp _
    rw [tickAndReload_of_pos (by omega), hcount, tickPrescaler_of_neg hp]
    rfl

/-- Settles O33: step (a) takes off at most 32, which a tick of step (b) gives back, and gives back only then. -/
theorem prescalerStaysInRange : Obligations.PrescalerStaysInRange := by
  intro n s t h hp
  obtain ⟨-, rfl⟩ := exec_eq_next.mp h
  obtain ⟨-, -, h⟩ | ⟨-, h⟩ := effect_sync n s <;> rw [h]
  · exact ⟨hp, fun h0 _ => h0⟩
  · rw [State.cycleSync, tickAndReload_prescaler]
    have hle := countCycles_le s.tmr_enabled s.prescaler n
    have hge := le_countCycles s.tmr_enabled s.prescaler n
    refine ⟨tickPrescaler_le (hle.trans hp), fun h0 hn => ?_⟩
    rcases lt_or_ge (countCycles s.tmr_enabled s.prescaler n) 0 with hneg | hnonneg
    · rw [tickPrescaler_of_neg hneg]; omega
    · rwa [tickPrescaler_of_nonneg hnonneg]

end Sys2Proof.Machine
end

section
/-! PROOFS. The invariant of the block (Safety.lean): each update of the state keeps it, so every behaviour whose row's
condition holds keeps it, and the decoder selects only such behaviours. -/

namespace Sys2Proof.Machine

section
variable {s : State}

/-- Driving either of the two levels keeps the invariant (60_exceptions.md R183). -/
theorem State.Inv.setIPL (h : s.Inv) {l : Level} (hl : l = Config.IPL_IDLE ∨ l = Config.TMR_IRQ_LEVEL) :
    (s.setIPL l).Inv where
  __ := h
  ipl_last := List.getLastD_concat.symm
  levels k hk := by
    obtain hk | rfl : k ∈ s.ipl_events ∨ k = l := by simpa using hk
    · exact h.levels k hk
    · exact hl

theorem State.Inv.setCounts (h : s.Inv) {p c : Int} (hp : p ≤ 31) (hc : 0 ≤ c) (hc' : c < 2 ^ 24) :
    (s.setCounts p c).Inv where
  __ := h
  counter_nonneg := hc
  counter_lt := hc'
  prescaler_le := hp

/-- Taking the halt at a device address keeps the invariant (60_exceptions.md R175, R176). -/
theorem State.Inv.raiseFatal (h : s.Inv) (code : FatalCode) {a : Addr} (w : Option Word)
    (ha : a ∈ s.cfg.deviceAddrs) : (s.raiseFatal code a w).Inv where
  __ := h
  halted_iff := rfl
  fatal_device r hr := by cases hr; exact ha

/-- Steps (b) and (c) keep the invariant on any prescaler that step (a) can leave (R162, R164). -/
theorem State.Inv.tickAndReload (h : s.Inv) {p : Int} (hp : p ≤ 31) : (s.tickAndReload p).Inv := by
  have hp' := tickPrescaler_le hp
  have hr : (s.reload.toNat : Int) < 2 ^ 24 := by have := s.reload.isLt; omega
  obtain ⟨-, -, ht⟩ | ⟨-, -, ht⟩ | ⟨hc, ht⟩ := tickAndReload_cases s p <;> rw [ht]
  · exact (h.setCounts hp' (Int.natCast_nonneg _) hr).setIPL (.inr rfl)
  · exact h.setCounts hp' (Int.natCast_nonneg _) hr
  · exact h.setCounts hp' hc.le ((tickCounter_bounds p s.counter).2.trans_lt h.counter_lt)

/-- A behaviour keeps the invariant where its row's condition holds, which puts the fatal ones at device
addresses. -/
theorem State.Inv.effect (h : s.Inv) {i : Instr} (hi : i.wellFormed s.cfg = true) : (effect i s).Inv := by
  cases i with
  | rdbAciaSr _ | rdbTmrSr _ | rdwMem _ | peekwBoot _ | peekwMem _ | wrbAciaDr _ _ | wrbAciaCr _ _ | wrbTmrRh _ _
  | wrbTmrRm _ _ | wrbTmrRl _ _ | wrbTmrCr _ _ => exact { h with }
  | wrbMem a v => exact { h with img_wf := memWrite1_wf h.img_wf a v }
  | wrwMem a w => exact { h with img_wf := memWrite2_wf h.img_wf a w }
  | wrbTmrSr a v =>
    rw [effect_wrbTmrSr]
    split
    · exact h.setIPL (.inl rfl)
    · exact h
  | rdbAciaDr a =>
    obtain rfl : a = s.cfg.A_ACIA_DR_RD := beq_iff_eq.mp hi
    exact h.raiseFatal _ _ (by simp [Config.deviceAddrs, Config.rdAddrs])
  | rdbMem a =>
    by_cases hu : s.cfg.UNBOUND_DIR_FATAL = true ∧ a ∈ s.cfg.wrAddrs
    · rw [effect_rdbMem_of_unbound hu]
      exact h.raiseFatal _ _ (List.mem_append_right _ hu.2)
    · rw [effect_rdbMem_of_plain hu]
      exact { h with }
  | rdwDev _ | wrwDev _ _ => exact h.raiseFatal _ _ (of_decide_eq_true hi)
  | peekwDev _ => exact h.raiseFatal _ _ (of_decide_eq_true (Bool.and_eq_true_iff.mp hi).1)
  | sync n =>
    obtain ⟨-, -, ht⟩ | ⟨-, ht⟩ := effect_sync n s <;> rw [ht]
    · exact h
    · exact h.tickAndReload ((countCycles_le _ _ n).trans h.prescaler_le)

end

/-- What a request of the trace selects satisfies its row's condition (30_encoding.md R88). -/
theorem request_decode_wellFormed {cfg : Config} {r : Request} {i : Instr} (h : r.decode cfg = .ok i) :
    i.wellFormed cfg = true := by
  cases r with
  | op o => cases h; exact decode_wellFormed cfg o
  | word t =>
    obtain ⟨o, -, rfl⟩ := decodeWord_eq_ok h
    exact decode_wellFormed cfg o

/-- Settles O52: taking the request off the trace touches no field the invariant speaks of, and the selected
behaviour keeps it. -/
theorem stepKeepsTheBlockInvariant : Obligations.StepKeepsTheBlockInvariant := by
  intro s t h hstep
  obtain ⟨-, -, ⟨-, rfl⟩ | ⟨r, rest, i, -, hd, hi⟩⟩ := step_eq_next hstep
  · exact h
  · obtain ⟨-, rfl⟩ := exec_eq_next.mp hi
    have hissue : (s.issue rest).Inv := { h with }
    exact hissue.effect (request_decode_wellFormed hd)

end Sys2Proof.Machine
end

section
/-! PROOFS. The machine-width note (42_interval_timer.md R167): a `SYNC` on 32-bit integers is exact while no value
leaves their range, and from power-on none does. -/

namespace Sys2Proof.Machine

/-- Steps (b) and (c) on 32 bits are steps (b) and (c), on a prescaler held in 32 bits. -/
theorem tickAndReload32_ofInt (s : State) {p : Int} (hp : inRange32 p) (ht : inRange32 (tickPrescaler p))
    (hc : inRange32 (tickCounter p s.counter)) :
    s.tickAndReload32 (BitVec.ofInt 32 p) = s.tickAndReload p := by
  simp only [State.tickAndReload32, State.tickAndReload, tickCounter32_ofInt s.counter hp,
    tickPrescaler32_ofInt hp, toInt_ofInt32 hc, toInt_ofInt32 ht, toInt_reload32]

/-- Cycle-sync on 32 bits is cycle-sync where no value leaves the range. -/
theorem cycleSync32_of_fits {s : State} {n : Nat} (h : s.Fits32 n) : s.cycleSync32 n = s.cycleSync n := by
  rw [State.cycleSync32, State.cycleSync, countCycles32_ofInt _ n h.prescaler,
    tickAndReload32_ofInt s h.counted h.ticked h.decremented]

/-- Settles O34: under each setting of `SYNC_GATE` the two implementations differ in their cycle-sync alone. -/
theorem syncOnThirtyTwoBitsIsExactInRange : Obligations.SyncOnThirtyTwoBitsIsExactInRange := by
  intro n s h
  cases hg : s.cfg.SYNC_GATE <;> simp only [exec32, exec, execSync32, execSync, hg, cycleSync32_of_fits h]

/-- The bounds of the two counts while every `SYNC` carries at most 2^31 - 1 cycles (R162, R164). -/
structure State.CountsBounded (s : State) : Prop where
  prescaler_ge : 32 - (2 ^ 31 - 1) ≤ s.prescaler
  prescaler_le : s.prescaler ≤ 31
  counter_nonneg : 0 ≤ s.counter
  counter_le : s.counter ≤ 2 ^ 24 - 1

theorem powerOn_countsBounded (cfg : Config) : (State.powerOn cfg).CountsBounded := by
  constructor <;> simp [State.powerOn]

section
variable {s : State} (h : s.CountsBounded)
include h

/-- Step (a) of such a `SYNC` leaves a prescaler of at least -(2^31 - 1). -/
theorem State.CountsBounded.counted {n : Nat} (hn : n ≤ 2 ^ 31 - 1) :
    -(2 ^ 31 - 1) ≤ countCycles s.tmr_enabled s.prescaler n ∧ countCycles s.tmr_enabled s.prescaler n ≤ 31 := by
  obtain ⟨hge, hle, -, -⟩ := h
  have hlow := le_countCycles s.tmr_enabled s.prescaler n
  have hhigh := countCycles_le s.tmr_enabled s.prescaler n
  omega

/-- Step (b) brings the prescaler back into its bounds. -/
theorem State.CountsBounded.ticked {n : Nat} (hn : n ≤ 2 ^ 31 - 1) :
    32 - (2 ^ 31 - 1) ≤ tickPrescaler (countCycles s.tmr_enabled s.prescaler n) := by
  obtain ⟨hlow, -⟩ := h.counted hn
  rcases lt_or_ge (countCycles s.tmr_enabled s.prescaler n) 0 with hneg | hnonneg
  · rw [tickPrescaler_of_neg hneg]; omega
  · rw [tickPrescaler_of_nonneg hnonneg]; omega

/-- No value of such a `SYNC` leaves 32 bits. -/
theorem State.CountsBounded.fits32 {n : Nat} (hn : n ≤ 2 ^ 31 - 1) : s.Fits32 n := by
  have hcounted := h.counted hn
  have hticked := h.ticked hn
  have hticked' := tickPrescaler_le hcounted.2
  have hdec := tickCounter_bounds (countCycles s.tmr_enabled s.prescaler n) s.counter
  obtain ⟨hge, hle, hc, hc'⟩ := h
  constructor <;> constructor <;> omega

/-- Such a `SYNC` keeps the bounds. -/
theorem State.CountsBounded.effect_sync {n : Nat} (hn : n ≤ 2 ^ 31 - 1) : (effect (.sync n) s).CountsBounded := by
  obtain ⟨-, -, ht⟩ | ⟨-, ht⟩ := Machine.effect_sync n s <;> rw [ht]
  · exact h
  · have hr := s.reload.isLt
    have hdec := tickCounter_bounds (countCycles s.tmr_enabled s.prescaler n) s.counter
    have hcounter := tickAndReload_counter s (countCycles s.tmr_enabled s.prescaler n)
    have hc := h.counter_le
    rw [State.cycleSync]
    constructor
    · rw [tickAndReload_prescaler]; exact h.ticked hn
    · rw [tickAndReload_prescaler]; exact tickPrescaler_le (h.counted hn).2
    · omega
    · omega

/-- Only a `SYNC` writes the counts (10_state.md R25, R26). -/
theorem State.CountsBounded.effect {i : Instr} (hs : s.halted = false) (hi : ∀ n, i = .sync n → n ≤ 2 ^ 31 - 1) :
    (effect i s).CountsBounded := by
  by_cases hsync : ∃ n, i = .sync n
  · obtain ⟨n, rfl⟩ := hsync
    exact h.effect_sync (hi n rfl)
  · obtain ⟨-, -, -, -, hcounts, -⟩ := eachFieldHasItsOwnWriters i s _ (exec_of_running i hs)
    obtain ⟨hc, hp⟩ := not_or.mp (mt hcounts hsync)
    rw [not_ne_iff] at hc hp
    obtain ⟨hge, hle, hc0, hc1⟩ := h
    constructor <;> simpa only [hp, hc]

/-- The two implementations perform a behaviour alike. -/
theorem State.CountsBounded.exec32_eq {i : Instr} (hi : ∀ n, i = .sync n → n ≤ 2 ^ 31 - 1) :
    exec32 i s = exec i s := by
  cases i with
  | sync n => exact syncOnThirtyTwoBitsIsExactInRange n s (h.fits32 (hi n rfl))
  | _ => rfl

/-- A run of behaviours from bounded counts keeps them bounded, and the two implementations perform it alike. -/
theorem State.CountsBounded.execAll {is : List Instr} (his : ∀ n, Instr.sync n ∈ is → n ≤ 2 ^ 31 - 1) :
    execAll32 is s = execAll is s ∧ ∀ t, execAll is s = .next t → t.CountsBounded := by
  induction is generalizing s with
  | nil => exact ⟨rfl, fun t ht => by cases ht; exact h⟩
  | cons i is ih =>
    have hi : ∀ n, i = .sync n → n ≤ 2 ^ 31 - 1 := fun n hn => his n (hn ▸ List.mem_cons_self)
    rw [execAll32, Machine.execAll, h.exec32_eq hi]
    cases hs : s.halted with
    | true =>
      rw [exec_of_halted i hs]
      exact ⟨rfl, fun t ht => nomatch ht⟩
    | false =>
      rw [exec_of_running i hs]
      exact ih (h.effect hs hi) fun n hn => his n (List.mem_cons_of_mem _ hn)

end

/-- Settles O35: power-on's counts are bounded, and the bounds are what a further `SYNC` needs to be in range. -/
theorem runsFromPowerOnAreExactOnThirtyTwoBits : Obligations.RunsFromPowerOnAreExactOnThirtyTwoBits := by
  intro cfg is his
  obtain ⟨heq, hkeep⟩ := (powerOn_countsBounded cfg).execAll his
  refine ⟨heq, fun t ht => ?_⟩
  have h := hkeep t ht
  refine ⟨⟨h.prescaler_ge, h.prescaler_le⟩, ⟨h.counter_nonneg, h.counter_le⟩,
    fun n hn => ⟨h.fits32 hn, ?_⟩⟩
  have hdec := (tickCounter_bounds (countCycles t.tmr_enabled t.prescaler n) t.counter).1
  have hc := h.counter_nonneg
  omega

end Sys2Proof.Machine
end

section
/-! PROOFS. The ticks of a run of `SYNC`s of at most 32 cycles (42_interval_timer.md R163, R166): a tick count is fixed
by the prescaler it leaves in [0, 31], so the counts of the parts of a run add up. -/

namespace Sys2Proof.Machine

/-- `ticks p c` is the one number of ticks that brings the prescaler back into [0, 31]. -/
theorem ticks_eq_iff {p : Nat} (hp : p ≤ 31) (c T : Nat) :
    ticks p c = T ↔ c ≤ p + 32 * T ∧ p + 32 * T ≤ c + 31 := by
  unfold ticks
  split <;> omega

/-- A run of no cycles makes no tick. -/
theorem ticks_zero (p : Nat) : ticks p 0 = 0 := if_pos p.zero_le

/-- The prescaler that a run of `c` cycles from `p` leaves. -/
def prescalerAfter (p c : Nat) : Nat := p + 32 * ticks p c - c

theorem prescalerAfter_eq {p : Nat} (hp : p ≤ 31) (c : Nat) :
    (prescalerAfter p c : Int) = p - c + 32 * ticks p c := by
  obtain ⟨hlow, -⟩ := (ticks_eq_iff hp c _).mp rfl
  unfold prescalerAfter
  omega

theorem prescalerAfter_le {p : Nat} (hp : p ≤ 31) (c : Nat) : prescalerAfter p c ≤ 31 := by
  obtain ⟨-, hhigh⟩ := (ticks_eq_iff hp c _).mp rfl
  unfold prescalerAfter
  omega

/-- The ticks of two runs in a row add up. -/
theorem ticks_add {p : Nat} (hp : p ≤ 31) (c d : Nat) :
    ticks p (c + d) = ticks p c + ticks (prescalerAfter p c) d := by
  have hafter := prescalerAfter_eq hp c
  obtain ⟨hlow, hhigh⟩ := (ticks_eq_iff (prescalerAfter_le hp c) d _).mp rfl
  rw [ticks_eq_iff hp]
  omega

/-- The prescaler after two runs in a row is the one after both. -/
theorem prescalerAfter_prescalerAfter {p : Nat} (hp : p ≤ 31) (c d : Nat) :
    prescalerAfter (prescalerAfter p c) d = prescalerAfter p (c + d) := by
  have hafter := prescalerAfter_eq hp c
  have hboth := prescalerAfter_eq hp (c + d)
  have hafter' := prescalerAfter_eq (prescalerAfter_le hp c) d
  have hadd := ticks_add hp c d
  omega

/-- Of at most 32 cycles `ticks` counts the tick of step (b): one where the cycles exceed the prescaler. -/
theorem ticks_of_le {p n : Nat} (hn : n ≤ 32) : ticks p n = if (p : Int) - n < 0 then 1 else 0 := by
  unfold ticks
  split_ifs <;> omega

/-- Step (b) after at most 32 cycles, for the prescaler. -/
theorem tickPrescaler_counted {p n : Nat} (hp : p ≤ 31) (hn : n ≤ 32) :
    tickPrescaler ((p : Int) - n) = prescalerAfter p n := by
  rw [prescalerAfter_eq hp, ticks_of_le hn, tickPrescaler, Config.PRESCALE]
  split <;> simp

/-- Step (b) after at most 32 cycles, for the counter. -/
theorem tickCounter_counted {p n : Nat} (hn : n ≤ 32) (c : Int) :
    tickCounter ((p : Int) - n) c = c - ticks p n := by
  rw [ticks_of_le hn, tickCounter]
  split <;> simp

/-- The timer of a running block is counting: enabled, with a prescaler of `p` in [0, 31]. -/
structure State.Counting (s : State) (p : Nat) : Prop where
  running : s.halted = false
  enabled : s.tmr_enabled = true
  prescaler : s.prescaler = p
  le : p ≤ 31

section
variable {s : State} {p n : Nat} (h : s.Counting p) (hn : n ≤ 32)
include h

theorem State.Counting.effect_sync_eq (n : Nat) : effect (.sync n) s = s.tickAndReload ((p : Int) - n) := by
  rw [effect_sync_of_ungated (.inr h.enabled), State.cycleSync, h.enabled, h.prescaler,
    countCycles_true (Int.natCast_nonneg p)]

include hn

/-- A `SYNC` of at most 32 cycles leaves the timer counting. -/
theorem State.Counting.effect_sync : (effect (.sync n) s).Counting (prescalerAfter p n) where
  running := (effect_sync_sameOutcomes n s).halted.trans h.running
  enabled := by rw [effect_sync_frame]; exact h.enabled
  prescaler := by rw [h.effect_sync_eq, tickAndReload_prescaler, tickPrescaler_counted h.le hn]
  le := prescalerAfter_le h.le n

/-- While the counter is above the tick count, the tick is taken from it and nothing else happens. -/
theorem State.Counting.effect_sync_of_ticks_lt (hc : ticks p n < s.counter) :
    effect (.sync n) s = s.setCounts (prescalerAfter p n) (s.counter - ticks p n) := by
  have hcount := tickCounter_counted (p := p) hn s.counter
  rw [h.effect_sync_eq, tickAndReload_of_pos (by omega), hcount, tickPrescaler_counted h.le hn]

/-- Where the ticks reach the counter, the `SYNC` is a reload event with its interrupt request (R166). -/
theorem State.Counting.effect_sync_of_le_ticks (hc : s.counter ≤ ticks p n) :
    effect (.sync n) s = (s.setCounts (prescalerAfter p n) s.reload.toNat).setIPL Config.TMR_IRQ_LEVEL := by
  have hcount := tickCounter_counted (p := p) hn s.counter
  rw [h.effect_sync_eq, tickAndReload_of_nonpos h.enabled (by omega), tickPrescaler_counted h.le hn]

end

/-- A run of `SYNC`s of at most 32 cycles leaves the timer counting; while the counter is above the tick count, the
ticks are taken from it and nothing else happens. -/
theorem State.Counting.execAll_syncs {s : State} {p : Nat} (h : s.Counting p) {ns : List Nat}
    (hns : ∀ n ∈ ns, n ≤ 32) :
    ∃ t, execAll (ns.map .sync) s = .next t ∧ t.Counting (prescalerAfter p ns.sum) ∧
      (ticks p ns.sum < s.counter →
        t = s.setCounts (prescalerAfter p ns.sum) (s.counter - ticks p ns.sum)) := by
  induction ns generalizing s p with
  | nil =>
    have h0 : prescalerAfter p 0 = p := by simp [prescalerAfter, ticks_zero]
    refine ⟨s, rfl, by rwa [List.sum_nil, h0], fun _ => ?_⟩
    rw [List.sum_nil, h0, ticks_zero, ← h.prescaler, Nat.cast_zero, sub_zero]
    rfl
  | cons n ns ih =>
    obtain ⟨hn, hns⟩ := List.forall_mem_cons.mp hns
    obtain ⟨t, ht, hcounting, hkeep⟩ := ih (h.effect_sync hn) hns
    have hadd := ticks_add h.le n ns.sum
    rw [prescalerAfter_prescalerAfter h.le] at hcounting hkeep
    rw [List.map_cons, List.sum_cons, execAll_cons _ _ h.running]
    refine ⟨t, ht, hcounting, fun hc => ?_⟩
    have hstep := h.effect_sync_of_ticks_lt hn (by omega)
    rw [hstep, State.setCounts_counter] at hkeep
    rw [hkeep (by omega), hadd, Nat.cast_add, sub_add_eq_sub_sub]
    rfl

/-- Settles O36: the run leaves the timer counting, at the prescaler that its ticks bring back into [0, 31]. -/
theorem tickCountFollowsTheCycles : Obligations.TickCountFollowsTheCycles := by
  intro ns p0 s hs he hns hp hp0
  obtain ⟨t, ht, hcounting, hkeep⟩ := State.Counting.execAll_syncs ⟨hs, he, hp, hp0⟩ hns
  refine ⟨t, ht, hcounting.prescaler.trans (prescalerAfter_eq hp0 _), fun hc => ?_⟩
  rw [hcounting.prescaler]
  exact hkeep hc

/-- Settles O37: up to the last `SYNC` the counter has lost all ticks but one, and the last `SYNC` makes that tick. -/
theorem reloadEventComesAtTheLastTick : Obligations.ReloadEventComesAtTheLastTick := by
  intro ns n p0 c s hs he hns hn hp hp0 hc hbefore hlast
  obtain ⟨t, ht, hcounting, hkeep⟩ := State.Counting.execAll_syncs ⟨hs, he, hp, hp0⟩ hns
  have hadd := ticks_add hp0 ns.sum n
  have hafter := prescalerAfter_eq hp0 (ns.sum + n)
  obtain rfl := hkeep (by omega)
  have hevent := hcounting.effect_sync_of_le_ticks hn (by rw [State.setCounts_counter]; omega)
  rw [List.map_append, execAll_append _ ht, List.map_singleton, execAll_cons_of_effect hevent hs, execAll_nil,
    prescalerAfter_prescalerAfter hp0, hafter, hlast]
  rfl

end Sys2Proof.Machine
end

section
/-! PROOFS. The timer's ports (42_interval_timer.md R147 to R153): which operation selects each port's behaviour, its
whole next state, and the reload value that three writes assemble. -/

namespace Sys2Proof.Machine

/-- The high write keeps the two lower bytes (R147). -/
theorem reloadWithHigh_lower (r : Reload) (v : Byte) :
    (reloadWithHigh r v).extractLsb' 0 16 = r.extractLsb' 0 16 :=
  BitVec.extractLsb'_append_eq_right

/-- The low write keeps the two higher bytes (R149). -/
theorem reloadWithLow_upper (r : Reload) (v : Byte) :
    (reloadWithLow r v).extractLsb' 8 16 = r.extractLsb' 8 16 :=
  BitVec.extractLsb'_append_eq_left

/-- Settles O23: each effect is one write of the reload value, whose lanes are those of `reloadWithHigh`,
`reloadWithMid` and `reloadWithLow`. -/
theorem reloadWritesReplaceOneByte : Obligations.ReloadWritesReplaceOneByte := by
  intro a v s hs
  refine ⟨fun hc => ⟨fun ha => ?_, fun ha => ?_, fun ha => ?_⟩,
    ⟨_, exec_of_running _ hs, rfl, reloadWithHigh_high _ v, reloadWithHigh_lower _ v⟩,
    ⟨_, exec_of_running _ hs, rfl, reloadWithMid_mid _ v, reloadWithMid_high _ v, reloadWithMid_low _ v⟩,
    ⟨_, exec_of_running _ hs, rfl, reloadWithLow_low _ v, reloadWithLow_upper _ v⟩⟩
  · exact Laws.Selects.wrbTmrRh a v s.cfg hc (beq_iff_eq.mpr ha)
  · exact Laws.Selects.wrbTmrRm a v s.cfg hc (beq_iff_eq.mpr ha)
  · exact Laws.Selects.wrbTmrRl a v s.cfg hc (beq_iff_eq.mpr ha)

/-- A reload value is known by its three bytes. -/
theorem reload_eq_of_bytes {r : Reload} {hi mid lo : Byte} (hhi : r.extractLsb' 16 8 = hi)
    (hmid : r.extractLsb' 8 8 = mid) (hlo : r.extractLsb' 0 8 = lo) : r = hi ++ mid ++ lo := by
  subst hhi hmid hlo
  exact reload_eq_bytes r

/-- The six orders of three elements. -/
theorem perm_three {α : Type} {l : List α} {x y z : α} (h : l.Perm [x, y, z]) :
    l = [x, y, z] ∨ l = [y, x, z] ∨ l = [y, z, x] ∨ l = [x, z, y] ∨ l = [z, x, y] ∨ l = [z, y, x] := by
  simpa [List.permutations', List.permutations'Aux] using List.mem_permutations'.mpr h

theorem effect_wrbTmrRh (a : Addr) (v : Byte) (s : State) :
    effect (.wrbTmrRh a v) s = s.setReload (reloadWithHigh s.reload v) := rfl

theorem effect_wrbTmrRm (a : Addr) (v : Byte) (s : State) :
    effect (.wrbTmrRm a v) s = s.setReload (reloadWithMid s.reload v) := rfl

theorem effect_wrbTmrRl (a : Addr) (v : Byte) (s : State) :
    effect (.wrbTmrRl a v) s = s.setReload (reloadWithLow s.reload v) := rfl

theorem setReload_setReload (s : State) (r r' : Reload) : (s.setReload r).setReload r' = s.setReload r' := rfl

/-- Settles O24: in each of the six orders the three writes are one write of a reload value with the three bytes. -/
theorem reloadWritesAssembleInAnyOrder : Obligations.ReloadWritesAssembleInAnyOrder := by
  intro a b c hi mid lo is s hs hperm
  change execAll is s = .next (s.setReload (hi ++ mid ++ lo))
  obtain rfl | rfl | rfl | rfl | rfl | rfl := perm_three hperm <;>
    simp only [execAll_cons, execAll_nil, hs, effect_wrbTmrRh, effect_wrbTmrRm, effect_wrbTmrRl,
      State.setReload_halted, State.setReload_reload, setReload_setReload] <;>
    exact congrArg (Host.Outcome.next <| s.setReload ·) (reload_eq_of_bytes (by simp) (by simp) (by simp))

/-- Bit 5 of a control byte decides (R150). -/
theorem isTimerEnable_eq_getLsbD (v : Byte) : isTimerEnable v = v.getLsbD 5 := by
  have hmask : Config.TMR_ENABLE_MASK = BitVec.twoPow 8 5 := rfl
  rw [isTimerEnable, hmask, BitVec.and_twoPow]
  cases v.getLsbD 5 <;> rfl

/-- Settles O25: the control write sets the enable to `isTimerEnable v`. -/
theorem timerControlWriteDecidesOnBitFive : Obligations.TimerControlWriteDecidesOnBitFive := by
  intro a v s hs
  refine ⟨fun hc ha => Laws.Selects.wrbTmrCr a v s.cfg hc (beq_iff_eq.mpr ha), ?_⟩
  rw [← isTimerEnable_eq_getLsbD]
  exact exec_of_running _ hs

/-- Settles O26: the status read returns `MemRead(a, 1)`. -/
theorem timerStatusReadFallsThroughToTheImage : Obligations.TimerStatusReadFallsThroughToTheImage := by
  intro a s hs
  exact ⟨fun hc ha => Laws.Selects.rdbTmrSr a s.cfg hc (beq_iff_eq.mpr ha), exec_of_running _ hs⟩

/-- Settles O27: the status byte 0x01 is `SetIPL(0)`, and any other does nothing. -/
theorem timerStatusWriteOfOneDrivesLevelZero : Obligations.TimerStatusWriteOfOneDrivesLevelZero := by
  intro a v s hs
  refine ⟨fun hc ha => Laws.Selects.wrbTmrSr a v s.cfg hc (beq_iff_eq.mpr ha), ?_⟩
  rw [exec_of_running _ hs]
  split_ifs with hv
  · rw [hv, effect_wrbTmrSr_one]; rfl
  · rw [effect_wrbTmrSr_of_ne a s hv]

end Sys2Proof.Machine
end

section
/-! PROOFS. The fatal-misuse halt (60_exceptions.md R175 to R179): which behaviours take it and what it records, by
the configuration alone, and that it ends a run of presented operations. -/

namespace Sys2Proof.Machine

/-- What a behaviour records where it is fatal, and none where it completes (60_exceptions.md R176; the byte read in
the unbound direction: 93_implementation_defined.md U3). -/
def fatalRecord (cfg : Config) : Instr → Option FatalRecord
  | .rdbAciaDr a => some ⟨.F_ACIA_DATA_READ, a, none⟩
  | .rdwDev a => some ⟨.F_WORD_READ_DEVICE, a, none⟩
  | .wrwDev a w => some ⟨.F_WORD_WRITE_DEVICE, a, some w⟩
  | .peekwDev a => some ⟨.F_PEEK_DEVICE, a, none⟩
  | .rdbMem a =>
    if cfg.UNBOUND_DIR_FATAL = true ∧ a ∈ cfg.wrAddrs then some ⟨.F_UNBOUND_DIR_READ, a, none⟩ else none
  | .rdbAciaSr _ | .rdbTmrSr _ | .rdwMem _ | .peekwBoot _ | .peekwMem _ | .wrbAciaDr _ _ | .wrbAciaCr _ _
  | .wrbTmrRh _ _ | .wrbTmrRm _ _ | .wrbTmrRl _ _ | .wrbTmrCr _ _ | .wrbTmrSr _ _ | .wrbMem _ _ | .wrwMem _ _
  | .sync _ => none

/-- A behaviour takes the halt with the record `fatalRecord` gives it, or leaves the halt latch as it is. -/
theorem effect_fatalRecord_cases (i : Instr) (s : State) :
    (∃ r, fatalRecord s.cfg i = some r ∧ effect i s = s.raiseFatal r.code r.a r.w) ∨
    (fatalRecord s.cfg i = none ∧ (effect i s).halted = s.halted) := by
  cases i with
  | rdbAciaDr _ | rdwDev _ | wrwDev _ _ | peekwDev _ => exact .inl ⟨_, rfl, rfl⟩
  | rdbMem a =>
    by_cases h : s.cfg.UNBOUND_DIR_FATAL = true ∧ a ∈ s.cfg.wrAddrs
    · exact .inl ⟨_, if_pos h, effect_rdbMem_of_unbound h⟩
    · exact .inr ⟨if_neg h, by rw [effect_rdbMem_of_plain h]; rfl⟩
  | rdbAciaSr _ | rdbTmrSr _ | rdwMem _ | peekwBoot _ | peekwMem _ | wrbAciaDr _ _ | wrbAciaCr _ _ | wrbTmrRh _ _
  | wrbTmrRm _ _ | wrbTmrRl _ _ | wrbTmrCr _ _ | wrbMem _ _ | wrwMem _ _ => exact .inr ⟨rfl, rfl⟩
  | wrbTmrSr a v => exact .inr ⟨rfl, (effect_wrbTmrSr_sameOutcomes a v s).halted⟩
  | sync n => exact .inr ⟨rfl, (effect_sync_sameOutcomes n s).halted⟩

section
variable {s : State} (hs : s.halted = false) (i : Instr)
include hs

theorem effect_halted : (effect i s).halted = (fatalRecord s.cfg i).isSome := by
  obtain ⟨r, hr, h⟩ | ⟨hr, h⟩ := effect_fatalRecord_cases i s <;> rw [h, hr]
  · rfl
  · exact hs

theorem effect_fatal (h : (effect i s).halted = true) : (effect i s).fatal = fatalRecord s.cfg i := by
  obtain ⟨r, hr, ht⟩ | ⟨-, ht⟩ := effect_fatalRecord_cases i s
  · rw [ht, hr]; rfl
  · simp [ht, hs] at h

theorem effect_fatalOutcome :
    (effect i s).fatalOutcome = (fatalRecord s.cfg i).map fun r => (r.code.number, r.a, r.w) := by
  unfold State.fatalOutcome
  split_ifs with h
  · rw [effect_fatal hs i h]
  · rw [effect_halted hs] at h
    rw [Option.not_isSome_iff_eq_none.mp h]
    rfl

end

/-- Settles O45: the halt and its record are `fatalRecord` of the configuration and the selected behaviour. -/
theorem fatalIsDecidedByTheDecoder : Obligations.FatalIsDecidedByTheDecoder := by
  intro o s s' hcfg hs hs'
  have hhalt : (effect (decode s.cfg o) s).halted = (effect (decode s'.cfg o) s').halted := by
    rw [effect_halted hs, effect_halted hs', hcfg]
  refine ⟨_, _, exec_of_running _ hs, exec_of_running _ hs', hhalt, fun ht => ?_⟩
  rw [effect_fatal hs _ ht, effect_fatal hs' _ (hhalt.symm.trans ht), hcfg]

/-! What each operation records, by its presented address (R176). -/

section
variable {cfg : Config} (a : Addr)

theorem fatalRecord_decode_rdb (hc : cfg.WellFormed) (hu : cfg.UNBOUND_DIR_FATAL = false) :
    fatalRecord cfg (decode cfg (.rdb a)) =
      if a = cfg.A_ACIA_DR_RD then some ⟨.F_ACIA_DATA_READ, a, none⟩ else none := by
  split_ifs with ha
  · exact congrArg (fatalRecord cfg) (Laws.Selects.rdbAciaDr a cfg hc (beq_iff_eq.mpr ha))
  · have hwf := decode_wellFormed cfg (.rdb a)
    obtain hd | hd | ⟨-, hd⟩ | ⟨-, hd⟩ := decode_rdb_cases cfg a <;> rw [hd] at hwf ⊢
    · rfl
    · exact absurd (beq_iff_eq.mp hwf) ha
    · rfl
    · exact if_neg fun h => by simp [hu] at h

theorem fatalRecord_decode_rdw : fatalRecord cfg (decode cfg (.rdw a)) =
    if a ∈ cfg.deviceAddrs then some ⟨.F_WORD_READ_DEVICE, a, none⟩ else none :=
  apply_ite (fatalRecord cfg) _ _ _

theorem fatalRecord_decode_wrw (w : Word) : fatalRecord cfg (decode cfg (.wrw a w)) =
    if a ∈ cfg.deviceAddrs then some ⟨.F_WORD_WRITE_DEVICE, a, some w⟩ else none :=
  apply_ite (fatalRecord cfg) _ _ _

/-- No byte write is fatal. -/
theorem fatalRecord_decode_wrb (v : Byte) : fatalRecord cfg (decode cfg (.wrb a v)) = none := by
  simp only [decode, decodeWrb]
  split_ifs <;> rfl

/-- A peek is fatal at a device address, but the bootstrap addresses are tested first (30_encoding.md R90). -/
theorem fatalRecord_decode_peekw : fatalRecord cfg (decode cfg (.peekw a)) =
    if a ∈ cfg.deviceAddrs ∧ a ∉ Config.BOOT_ADDRS then some ⟨.F_PEEK_DEVICE, a, none⟩ else none := by
  cases hb : BootSlot.ofAddr? a with
  | some b =>
    obtain rfl := BootSlot.ofAddr?_eq_some.mp hb
    have hboot : b.addr ∈ Config.BOOT_ADDRS := by cases b <;> decide
    rw [decode_peekw_bootAddr, if_neg fun h => h.2 hboot]
    rfl
  | none =>
    have hboot := BootSlot.ofAddr?_eq_none.mp hb
    simp only [decode_peekw_of_not_boot hboot, hboot, not_false_iff, and_true]
    exact apply_ite (fatalRecord cfg) _ _ _

end

/-- Settles O19: the outcome is what `fatalRecord` gives the selected behaviour, read off for each operation. -/
theorem onlyTheFourCausesAreFatal : Obligations.OnlyTheFourCausesAreFatal := by
  intro o s hs hc hu
  refine ⟨_, exec_of_running _ hs, ?_⟩
  rw [effect_fatalOutcome hs]
  cases o with
  | rdb a => rw [fatalRecord_decode_rdb a hc hu]; exact apply_ite (Option.map _) _ _ _
  | rdw a => rw [fatalRecord_decode_rdw]; exact apply_ite (Option.map _) _ _ _
  | wrb a v => rw [fatalRecord_decode_wrb]; rfl
  | wrw a w => rw [fatalRecord_decode_wrw]; exact apply_ite (Option.map _) _ _ _
  | peekw a => rw [fatalRecord_decode_peekw]; exact apply_ite (Option.map _) _ _ _
  | sync n => rfl

/-- An operation that completes when presented was decoded and performed, on a running block. -/
theorem present_eq_next {o : Op} {s t : State} (h : present o s = .next t) :
    s.halted = false ∧ exec (decode s.cfg o) { s with opsIssued := s.opsIssued + 1 } = .next t := by
  obtain ⟨hs, hw, -⟩ := step_eq_next h
  exact ⟨hs, (present_of_running (s := s) hs hw).symm.trans h⟩

/-- After an operation that halted the block nothing more is presented (R178). -/
theorem presentAll_cons_of_halted {o : Op} (os : List Op) {s u : State} (h : present o s = .next u)
    (hu : u.halted = true) : presentAll (o :: os) s = .next u := by
  simp [presentAll, h, hu]

/-- An operation that leaves the block halted took the fatal-misuse halt, which changes the latch alone (R175). -/
theorem eq_raiseFatal_of_halted {i : Instr} {s t : State} (h : exec i s = .next t) (ht : t.halted = true) :
    ∃ r : FatalRecord, t = s.raiseFatal r.code r.a r.w := by
  obtain ⟨hs, rfl⟩ := exec_eq_next.mp h
  obtain ⟨r, -, hr⟩ | ⟨-, hr⟩ := effect_fatalRecord_cases i s
  · exact ⟨r, hr⟩
  · simp [hr, hs] at ht

/-- Settles O49: the operations that completed hand over to the fatal one, after which nothing is presented. -/
theorem theHaltIsPrecise : Obligations.TheHaltIsPrecise := by
  intro before after o s t u hbefore ht ho hu
  obtain ⟨-, hexec⟩ := present_eq_next ho
  obtain ⟨r, rfl⟩ := eq_raiseFatal_of_halted hexec hu
  refine ⟨?_, r, rfl⟩
  rw [presentAll_append _ hbefore ht, presentAll_cons_of_halted after ho hu]

end Sys2Proof.Machine
end

section
/-! PROOFS. The interrupt level (60_exceptions.md R182 to R186): what drives it, what raises and what lowers it, and
an acknowledge followed by a new request. -/

namespace Sys2Proof.Machine

/-- All that a `SYNC` can do to the level: leave it and its events alone, or drive 5 at the reload event of an
enabled timer (R182). -/
theorem effect_sync_level_cases (n : Nat) (s : State) :
    ((effect (.sync n) s).ipl_events = s.ipl_events ∧ (effect (.sync n) s).ipl = s.ipl) ∨
    (s.tmr_enabled = true ∧ tickCounter (countCycles s.tmr_enabled s.prescaler n) s.counter ≤ 0 ∧
      effect (.sync n) s = (s.setCounts (tickPrescaler (countCycles s.tmr_enabled s.prescaler n))
        s.reload.toNat).setIPL Config.TMR_IRQ_LEVEL) := by
  obtain ⟨-, -, h⟩ | ⟨-, h⟩ := effect_sync n s <;> rw [h]
  · exact .inl ⟨rfl, rfl⟩
  · rw [State.cycleSync]
    obtain ⟨hc, he, ht⟩ | ⟨-, -, ht⟩ | ⟨-, ht⟩ :=
      tickAndReload_cases s (countCycles s.tmr_enabled s.prescaler n) <;> rw [ht]
    · exact .inr ⟨he, hc, rfl⟩
    · exact .inl ⟨rfl, rfl⟩
    · exact .inl ⟨rfl, rfl⟩

/-- An operation that changes the level or its events is a `SYNC` with the reload event of an enabled timer, which
drives 5, or the status write of 0x01, which drives 0 (R182, R183). -/
theorem level_change_cases {i : Instr} {s t : State} (h : exec i s = .next t)
    (hne : t.ipl_events ≠ s.ipl_events ∨ t.ipl ≠ s.ipl) :
    (∃ n, i = .sync n ∧ s.tmr_enabled = true ∧
      tickCounter (countCycles s.tmr_enabled s.prescaler n) s.counter ≤ 0 ∧
      t = (s.setCounts (tickPrescaler (countCycles s.tmr_enabled s.prescaler n))
        s.reload.toNat).setIPL Config.TMR_IRQ_LEVEL) ∨
    (∃ a, i = .wrbTmrSr a 1 ∧ t = s.setIPL Config.IPL_IDLE) := by
  obtain ⟨-, -, -, -, -, -, hwriters, -⟩ := eachFieldHasItsOwnWriters i s t h
  obtain ⟨-, rfl⟩ := exec_eq_next.mp h
  obtain ⟨n, rfl⟩ | ⟨a, rfl⟩ := hwriters hne.symm
  · obtain ⟨hev, hipl⟩ | ⟨he, hc, ht⟩ := effect_sync_level_cases n s
    · exact (hne.elim (· hev) (· hipl)).elim
    · exact .inl ⟨n, rfl, he, hc, ht⟩
  · exact .inr ⟨a, rfl, effect_wrbTmrSr_one a s⟩

/-- Settles O40: of the two changes only the reload event drives a level above 0. -/
theorem onlyAnEnabledReloadEventRaisesTheLevel : Obligations.OnlyAnEnabledReloadEventRaisesTheLevel := by
  intro i s t h
  refine ⟨fun hne => ?_, fun hlt => ?_⟩
  · obtain ⟨n, rfl, he, hc, rfl⟩ | ⟨a, rfl, rfl⟩ := level_change_cases h hne
    · exact .inl ⟨n, rfl, he, hc, rfl, rfl, rfl⟩
    · exact .inr ⟨a, rfl, rfl, rfl⟩
  · have hne : t.ipl ≠ s.ipl := fun heq => by simp [heq] at hlt
    obtain ⟨n, rfl, he, hc, -⟩ | ⟨a, -, rfl⟩ := level_change_cases h (.inr hne)
    · exact ⟨n, rfl, he, hc⟩
    · exact absurd hlt (Nat.not_lt_zero _)

/-- Under the invariant the level is one of the two that are ever driven (R183). -/
theorem State.Inv.ipl_cases {s : State} (h : s.Inv) : s.ipl = Config.IPL_IDLE ∨ s.ipl = Config.TMR_IRQ_LEVEL := by
  have hmem : s.ipl ∈ Config.IPL_IDLE :: s.ipl_events := h.ipl_last ▸ List.getLastD_mem_cons
  obtain hidle | hevent := List.mem_cons.mp hmem
  · exact .inl hidle
  · exact h.levels _ hevent

theorem State.Inv.ipl_le {s : State} (h : s.Inv) : s.ipl.toNat ≤ Config.TMR_IRQ_LEVEL.toNat := by
  obtain hl | hl := h.ipl_cases
  · rw [hl]; exact Nat.zero_le _
  · rw [hl]

/-- Settles O39: of the two changes the reload event drives 5, which is no lower than any level driven. -/
theorem onlyTheStatusWriteLowersTheLevel : Obligations.OnlyTheStatusWriteLowersTheLevel := by
  refine ⟨fun a s hs => exec_of_running _ hs, fun i s t hinv h hlt => ?_⟩
  have hne : t.ipl ≠ s.ipl := fun heq => by simp [heq] at hlt
  obtain ⟨n, -, -, -, rfl⟩ | ⟨a, hi, -⟩ := level_change_cases h (.inr hne)
  · exact absurd hlt hinv.ipl_le.not_gt
  · exact ⟨a, hi⟩

/-- Step (a) on an enabled timer. -/
theorem countCycles_enabled (p : Int) (n : Nat) : countCycles true p n = if 0 ≤ p then p - n else p := by
  simp [countCycles]

/-- Settles O38: the acknowledge touches the level and its events alone, so the `SYNC` has the same reload event as
without it, and appends its own. -/
theorem acknowledgeDoesNotLoseANewRequest : Obligations.AcknowledgeDoesNotLoseANewRequest := by
  intro a n s hs he p hp hc
  have hcount : countCycles s.tmr_enabled s.prescaler n = p := by rw [he, countCycles_enabled, hp]
  have hsync : effect (.sync n) (s.setIPL Config.IPL_IDLE) =
      ((s.setIPL Config.IPL_IDLE).setCounts (tickPrescaler p) s.reload.toNat).setIPL Config.TMR_IRQ_LEVEL := by
    rw [effect_sync_of_ungated (s := s.setIPL Config.IPL_IDLE) (.inr he), State.cycleSync,
      State.setIPL_tmr_enabled, State.setIPL_prescaler, hcount,
      tickAndReload_of_nonpos (s := s.setIPL Config.IPL_IDLE) he hc, State.setIPL_reload]
  have hevents : s.ipl_events ++ [0, 5] = s.ipl_events ++ [0] ++ [5] := (List.append_assoc _ [0] [5]).symm
  rw [execAll_cons_of_effect (effect_wrbTmrSr_one a s) hs, execAll_cons_of_effect hsync hs, execAll_nil, hevents]
  rfl

end Sys2Proof.Machine
end

section
/-! PROOFS. The loader (70_reset_and_hazards.md R211): a record is written from its address up, and stops at the end
of the image. -/

namespace Sys2Proof.Machine

/-- One byte of a record that has a place in the image is stored and counted, and the rest goes on behind it. -/
theorem loadBytes_cons_of_lt {A : Nat} (hA : A < 65536) (b : Byte) (bs : List Byte) (s : State) :
    loadBytes A (b :: bs) s =
      { loadBytes (A + 1) bs { s with img := s.img.store A b } with
        count := (loadBytes (A + 1) bs { s with img := s.img.store A b }).count + 1 } :=
  if_pos hA

/-- A record's byte past the image aborts the load. -/
theorem loadBytes_cons_of_ge {A : Nat} (hA : 65536 ≤ A) (b : Byte) (bs : List Byte) (s : State) :
    loadBytes A (b :: bs) s = ⟨s, 0, false⟩ :=
  if_neg (Nat.not_lt.mpr hA)

/-- A record changes no byte outside its own indexes, whether it fits or not. -/
theorem loadBytes_byteAt_outside (A : Nat) (bs : List Byte) (s : State) {j : Nat} (hj : j < A ∨ A + bs.length ≤ j) :
    (loadBytes A bs s).state.img.byteAt j = s.img.byteAt j := by
  induction bs generalizing A s with
  | nil => rfl
  | cons b bs ih =>
    rw [List.length_cons] at hj
    obtain hA | hA := Nat.lt_or_ge A 65536
    · rw [loadBytes_cons_of_lt hA]
      exact (ih (A + 1) _ (by omega)).trans (Memory.byteAt_store_ne _ _ (by omega))
    · rw [loadBytes_cons_of_ge hA]

/-- A record that fits leaves its `k`-th byte at its address plus `k`: the byte is stored into a canonical image, and
the bytes behind it go to higher indexes. -/
theorem loadBytes_byteAt_record {A : Nat} {bs : List Byte} {s : State} (hs : s.img.wf) (hfit : A + bs.length ≤ 65536)
    {k : Nat} (hk : k < bs.length) : (loadBytes A bs s).state.img.byteAt (A + k) = bs[k] := by
  induction bs generalizing A s k with
  | nil => nomatch hk
  | cons b bs ih =>
    rw [List.length_cons] at hfit hk
    have hA : A < 65536 := by omega
    rw [loadBytes_cons_of_lt hA]
    cases k with
    | zero => exact (loadBytes_byteAt_outside (A + 1) bs _ (by omega)).trans (Memory.byteAt_store_eq hs A b)
    | succ k =>
      rw [List.getElem_cons_succ, show A + (k + 1) = A + 1 + k by omega]
      exact ih (Memory.store_wf hs hA b) (by omega) (by omega)

/-- A record that fits is counted whole and its load succeeds. -/
theorem loadBytes_count_ok {A : Nat} {bs : List Byte} (s : State) (hfit : A + bs.length ≤ 65536) :
    (loadBytes A bs s).count = bs.length ∧ (loadBytes A bs s).ok = true := by
  induction bs generalizing A s with
  | nil => exact ⟨rfl, rfl⟩
  | cons b bs ih =>
    rw [List.length_cons] at hfit
    rw [loadBytes_cons_of_lt (by omega)]
    obtain ⟨hcount, hok⟩ := ih (A := A + 1) { s with img := s.img.store A b } (by omega)
    exact ⟨congrArg (· + 1) hcount, hok⟩

/-- A record that exceeds the image does what its part below 65536 does, and aborts. -/
theorem loadBytes_of_exceeds {A : Nat} {bs : List Byte} (s : State) (hexc : 65536 < A + bs.length) (hbs : bs ≠ []) :
    loadBytes A bs s = { loadBytes A (bs.take (65536 - A)) s with ok := false } := by
  induction bs generalizing A s with
  | nil => exact absurd rfl hbs
  | cons b bs ih =>
    rw [List.length_cons] at hexc
    obtain hA | hA := Nat.lt_or_ge A 65536
    · have hne : bs ≠ [] := List.ne_nil_of_length_pos (by omega)
      rw [show 65536 - A = (65536 - (A + 1)) + 1 by omega, List.take_succ_cons, loadBytes_cons_of_lt hA,
        loadBytes_cons_of_lt hA, ih _ (by omega) hne]
    · rw [loadBytes_cons_of_ge hA, Nat.sub_eq_zero_of_le hA]
      rfl

/-- Settles O53: what a fitting record leaves at its own indexes and elsewhere, and the split of one that exceeds the
image. -/
theorem loaderWritesOneRecord : Obligations.LoaderWritesOneRecord := by
  refine fun A bs s hs => ⟨fun hfit => ?_, loadBytes_of_exceeds s⟩
  obtain ⟨hcount, hok⟩ := loadBytes_count_ok s hfit
  refine ⟨(loadBytes A bs s).state, ?_, loadBytes_frame A bs s, fun k hk => loadBytes_byteAt_record hs hfit hk,
    fun j hj => loadBytes_byteAt_outside A bs s hj⟩
  rw [← hcount, ← hok]

end Sys2Proof.Machine
end

section
/-! PROOFS. The trace loop and the whole run (70_reset_and_hazards.md R212 to R217): a run that ends at its cap is a
chain of completed steps, each issuing its peek and its operations; the run begins with the load and the CPU reset. -/

namespace Sys2Proof.Machine

/-- An operation that completes when presented is counted once. -/
theorem present_opsIssued {o : Op} {s t : State} (h : present o s = .next t) : t.opsIssued = s.opsIssued + 1 := by
  obtain ⟨-, hexec⟩ := present_eq_next h
  obtain ⟨-, -, -, -, -, -, -, -, -, -, -, hissued⟩ := eachFieldHasItsOwnWriters _ _ _ hexec
  exact hissued

/-- Presenting an operation and then others ends running exactly where the first does and the others then do. -/
theorem presentAll_cons_eq_next_of_running {o : Op} {os : List Op} {s t : State} (ht : t.halted = false) :
    presentAll (o :: os) s = .next t ↔
      ∃ u, present o s = .next u ∧ u.halted = false ∧ presentAll os u = .next t := by
  refine ⟨fun h => ?_, fun ⟨u, ho, hu, hos⟩ => (presentAll_cons_of_running os ho hu).trans hos⟩
  cases ho : present o s with
  | next u =>
    cases hu : u.halted with
    | true =>
      rw [presentAll_cons_of_halted os ho hu] at h
      cases h
      simp [ht] at hu
    | false => exact ⟨u, rfl, hu, presentAll_cons_of_running os ho hu ▸ h⟩
  | fault r => simp [presentAll, ho] at h
  | refused r => simp [presentAll, ho] at h

/-- Operations none of which was fatal were all issued. -/
theorem presentAll_opsIssued {os : List Op} {s t : State} (h : presentAll os s = .next t) (ht : t.halted = false) :
    t.opsIssued = s.opsIssued + os.length := by
  induction os generalizing s with
  | nil => cases h; rfl
  | cons o os ih =>
    obtain ⟨u, ho, -, hos⟩ := (presentAll_cons_eq_next_of_running ht).mp h
    rw [ih hos, present_opsIssued ho, List.length_cons]
    omega

/-- One completed step of the trace loop, from `s` to `t` (R213): the peek at the program counter, whose word is not
illegal, and then the operations of the CPU core, none of them fatal. -/
structure CompletesStep (illegal : List Word) (cpu : State → CpuStep) (s t : State) : Prop where
  peek : ∃ u, present (.peekw (cpu s).pc) s = .next u ∧ isIllegal illegal u.results.getLast? = false
  presents : presentAll (.peekw (cpu s).pc :: (cpu s).ops) s = .next t
  running : t.halted = false

theorem CompletesStep.opsIssued {illegal : List Word} {cpu : State → CpuStep} {s t : State}
    (h : CompletesStep illegal cpu s t) : t.opsIssued = s.opsIssued + ((cpu s).ops.length + 1) :=
  presentAll_opsIssued h.presents h.running

/-- A trace loop ends at a cap above 0 only through a completed step, after which it ends at the cap less one. -/
theorem traceLoop_succ_of_capReached {illegal : List Word} {cpu : State → CpuStep} {cap : Nat} {s t : State}
    (h : traceLoop illegal cpu (cap + 1) s = .capReached t) :
    ∃ u, CompletesStep illegal cpu s u ∧ traceLoop illegal cpu cap u = .capReached t := by
  rw [traceLoop] at h
  split at h
  next v hv =>
    split_ifs at h with hvh hill
    split at h
    next u hu =>
      split_ifs at h with huh
      have hrun : u.halted = false := Bool.eq_false_of_not_eq_true huh
      have hpeek : v.halted = false := Bool.eq_false_of_not_eq_true hvh
      exact ⟨u, ⟨⟨v, hv, Bool.eq_false_of_not_eq_true hill⟩,
        (presentAll_cons_eq_next_of_running hrun).mpr ⟨v, hv, hpeek, hu⟩, hrun⟩, h⟩
    all_goals cases h
  all_goals cases h

/-- The states of a run with one more state before them. -/
def prependState (s : State) (σ : Nat → State) : Nat → State
  | 0 => s
  | j + 1 => σ j

/-- A trace loop that ends at its cap went through that many completed steps. -/
theorem exists_steps_of_capReached {illegal : List Word} {cpu : State → CpuStep} {cap : Nat} {s t : State}
    (h : traceLoop illegal cpu cap s = .capReached t) :
    ∃ σ : Nat → State, σ 0 = s ∧ σ cap = t ∧ ∀ j < cap, CompletesStep illegal cpu (σ j) (σ (j + 1)) := by
  induction cap generalizing s with
  | zero => cases h; exact ⟨fun _ => _, rfl, rfl, fun _ hj => nomatch hj⟩
  | succ cap ih =>
    obtain ⟨u, hstep, hrest⟩ := traceLoop_succ_of_capReached h
    obtain ⟨σ, rfl, hlast, hsteps⟩ := ih hrest
    refine ⟨prependState s σ, rfl, hlast, fun j hj => ?_⟩
    cases j with
    | zero => exact hstep
    | succ j => exact hsteps j (Nat.lt_of_succ_lt_succ hj)

/-- Where every step brings `k` operations, a run to the cap issued those and one peek in each step. -/
theorem opsIssued_of_capReached {illegal : List Word} {cpu : State → CpuStep} {k : Nat}
    (hk : ∀ s, (cpu s).ops.length = k) {cap : Nat} {s t : State}
    (h : traceLoop illegal cpu cap s = .capReached t) : t.opsIssued = s.opsIssued + cap * (k + 1) := by
  induction cap generalizing s with
  | zero => cases h; simp
  | succ cap ih =>
    obtain ⟨u, hstep, hrest⟩ := traceLoop_succ_of_capReached h
    rw [ih hrest, hstep.opsIssued, hk, Nat.succ_mul]
    omega

/-- Settles O54: the chain of completed steps, each of which says what it presented and issued. -/
theorem runToTheCapPerformsEveryStep : Obligations.RunToTheCapPerformsEveryStep := by
  refine fun illegal cpu cap s t h => ⟨?_, fun k hk => opsIssued_of_capReached hk h⟩
  obtain ⟨σ, hfirst, hlast, hsteps⟩ := exists_steps_of_capReached h
  refine ⟨σ, hfirst, hlast, fun j hj => ?_⟩
  have hstep := hsteps j hj
  exact ⟨hstep.peek, hstep.presents, CpuStep.ops_getLast? _, hstep.running, hstep.opsIssued⟩

/-- A loaded block that runs is reset by four peeks, and the trace loop goes on from there (R212, R217). -/
theorem runLoaded_of_running (illegal : List Word) (cpu : State → CpuStep) (cap : Nat) {s : State}
    (hs : s.halted = false) (hw : s.cfg.WellFormed) :
    runLoaded illegal cpu cap s = traceLoop illegal cpu cap { s with
      opsIssued := s.opsIssued + 4
      results := s.results ++
        [.word s.cfg.BOOT_W0, .word s.cfg.BOOT_W2, .word s.cfg.BOOT_W4, .word s.cfg.START_PC] } := by
  rw [runLoaded, presentAll_cpuReset hs hw]
  exact if_neg (by simp [hs])

/-- Settles O55: the load touches the image alone, so the block it leaves runs under `cfg` with nothing issued and
nothing read yet. -/
theorem aHostRunLoadsThenResetsThenSteps : Obligations.AHostRunLoadsThenResetsThenSteps := by
  intro cfg file illegal cpu cap r hcfg hload
  have hframe := loadFile_frame hload
  have hrun : hostRun cfg file illegal cpu cap =
      some (if r.ok then runLoaded illegal cpu cap r.state else .loadFailed r.state) := by
    rw [hostRun, hload, Option.map_some]
  refine ⟨hframe, fun hfailed => by simp [hrun, hfailed], fun hok => ?_⟩
  rw [hrun, if_pos hok, hframe, runLoaded_of_running]
  · rfl
  · rfl
  · exact hcfg

end Sys2Proof.Machine
end

section
/-! PROOFS. The two settings of `SYNC_GATE` (93_implementation_defined.md U4, 92_eei_decisions.md D14): on an
enabled timer a `SYNC` does not depend on the configuration, and `whole` differs for a disabled one alone. -/

namespace Sys2Proof.Machine

/-- On an enabled timer steps (b) and (c) of cycle-sync neither read nor write the configuration. -/
theorem tickAndReload_withConfig_of_enabled {s : State} (he : s.tmr_enabled = true) (c : Config) (p : Int) :
    ({ s with cfg := c } : State).tickAndReload p = { s.tickAndReload p with cfg := c } := by
  rcases le_or_gt (tickCounter p s.counter) 0 with hc | hc
  · rw [tickAndReload_of_nonpos he hc]
    exact tickAndReload_of_nonpos he hc
  · rw [tickAndReload_of_pos hc]
    exact tickAndReload_of_pos hc

/-- On an enabled timer a `SYNC` is cycle-sync, whatever the configuration is. -/
theorem exec_sync_withConfig_of_enabled {s : State} (hs : s.halted = false) (he : s.tmr_enabled = true)
    (c : Config) (n : Nat) :
    exec (.sync n) { s with cfg := c } = .next { s.cycleSync n with cfg := c } := by
  rw [exec_of_running (s := { s with cfg := c }) _ hs, effect_sync_of_ungated (s := { s with cfg := c }) (.inr he)]
  exact congrArg _ (tickAndReload_withConfig_of_enabled he c _)

/-- Settles O30: an enabled timer does cycle-sync under either setting, and a disabled one in these states is
frozen under either. -/
theorem gateReadingsAgree : Obligations.GateReadingsAgree := by
  intro n s hs h
  obtain he | he := s.tmr_enabled.eq_false_or_eq_true
  · exact ⟨s.cycleSync n, fun _ => exec_sync_withConfig_of_enabled hs he _ n⟩
  · obtain ⟨hp, hc⟩ := h.resolve_left (by simp [he])
    exact ⟨s, fun g => disabledTimerIsFrozen n { s with cfg := { s.cfg with SYNC_GATE := g } } hs he hp hc⟩

/-- Settles O29: a disabled timer stands behind the gate, and an enabled one does cycle-sync under either setting. -/
theorem syncUnderTheWholeGate : Obligations.SyncUnderTheWholeGate := by
  refine fun n s hs hg => ⟨fun he => ?_, fun he => ?_⟩
  · rw [exec_of_running _ hs]
    obtain ⟨-, -, h⟩ | ⟨hopen, -⟩ := effect_sync n s
    · rw [h]
    · exact absurd ⟨hg, he⟩ hopen
  · exact ⟨_, exec_sync_withConfig_of_enabled hs he _ n, exec_sync_withConfig_of_enabled hs he s.cfg n⟩

end Sys2Proof.Machine
end
